-- ==== Sys2Proof/Word.lean ====
section
/-!
DEFINITION. The words of the BearBus engine, the names the spec gives to small sets of values, and the plain records
that travel between its units (00_scope.md R6, 10_state.md R11, R13, R19, R20, 30_encoding.md R66, R69, R77).
-/

namespace Sys2Proof

/-- A byte: 8 bits, an unsigned value 0 to 255 (R6). -/
abbrev Byte := BitVec 8

/-- The 16-bit value of a CRC-16 (R90). -/
abbrev Word16 := BitVec 16

/-- A payload: 0 to 127 bytes (R4, R19, R20). The bound travels with the bytes. -/
abbrev Payload := { l : List Byte // l.length ≤ 127 }

/-- Who produced a packet (R20). -/
inductive Origin where
  | device | host
  deriving DecidableEq, Repr

/-- The four packet kinds (R69). -/
inductive Kind where
  | systemReport | customReply | systemRequest | customRequest
  deriving DecidableEq, Repr

/-- The role of a port (R216). -/
inductive Role where
  | monitor | host | device
  deriving DecidableEq, Repr

/-- The action a system request selects (R71, R77). -/
inductive Action where
  | unknown | ping | reboot | blinkOn | blinkOff | firmwareUpgrade
  deriving DecidableEq, Repr

/-- The four frame forms (R66). -/
inductive Form where
  | emb | empty | crc8 | crc16
  deriving DecidableEq, Repr

/-- The nine values of the parser state register `st`, in order of normal traversal (R11). -/
inductive PState where
  | searchHeader | waitAddress | waitCommand | waitDataLength | waitHeaderCrc8
  | waitExtraData | waitExtraDataCrc8 | waitExtraDataCrc16a | waitExtraDataCrc16b
  deriving DecidableEq, Repr

/-- The header index a rollback candidate can name: 1, 2 or 3 (R13). -/
inductive Cand where
  | k1 | k2 | k3
  deriving DecidableEq, Repr

/-- The eighteen parser transitions (R100). -/
inductive Trans where
  | searchSkip | searchSync | addr | cmd | len
  | hcrcOkEmb | hcrcOkEmpty | hcrcOkData | hcrcBadNoroll | hcrcBadRollback
  | dataMore | dataLast8 | dataLast16
  | pcrc8Ok | pcrc8Bad | pcrc16a | pcrc16bOk | pcrc16bBad
  deriving DecidableEq, Repr

/-- The header fields every frame carries (R61, R62): address, origin, role flag, command. -/
structure Head where
  addr    : Byte
  origin  : Origin
  role    : Bool
  command : BitVec 5
  deriving DecidableEq, Repr

/-- The frame record the parser emits (R19). -/
structure FrameRecord where
  addr    : Byte
  flags   : Byte
  payload : Payload
  deriving DecidableEq, Repr

/-- The Packet the queue holds (R20). Its `kind` is a function of `origin` and `command` and carries no extra
information, so it is computed (`Packet.kind`) and not stored. -/
structure Packet where
  origin   : Origin
  address  : Byte
  roleFlag : Bool
  command  : BitVec 5
  payload  : Payload
  deriving DecidableEq, Repr

/-- What a sender hands to one of the four packet constructors (R143): plain numbers and bytes, in range or not. -/
inductive Draft where
  | customRequest (address command : Nat) (payload : List Byte) (replyRequested : Bool)
  | customReply   (address command : Nat) (payload : List Byte) (isError : Bool)
  | systemRequest (address : Nat) (payload : List Byte) (replyRequested : Bool)
  | systemReport  (address : Nat) (payload : List Byte) (isError : Bool)
  deriving DecidableEq, Repr

/-- The timeout operand of `RECV`: a duration or infinite (R156). -/
inductive Timeout where
  | infinite
  | after (d : Nat)
  deriving DecidableEq, Repr

/-- What a wait on the notifier waits for besides a count (R154): nothing, a deadline, a cancellation signal. -/
inductive Limit where
  | forever
  | deadline (t : Nat)
  | cancel (sig : Nat)
  deriving DecidableEq, Repr

/-- What a receive operation ends with (R201). -/
inductive RecvResult where
  | ok (p : Packet)
  | none
  | timeout
  | cancelled
  deriving DecidableEq, Repr

/-- What `wait_notifier` returns (R154). -/
inductive WaitResult where
  | woken | timedOut | aborted
  deriving DecidableEq, Repr

/-- What a send ends with (R189 to R191, R201), or that no Packet could be constructed (R202). -/
inductive SendResult where
  | success | writeError | refused | constructionError
  deriving DecidableEq, Repr

end Sys2Proof
end

