-- ==== Sys2Proof/Config.lean ====
section
/-!
DEFINITION. The constants the source fixes (00_scope.md R4) and the parameters it names but gives no value for (R5,
93_implementation_defined.md U1, U2, U10). A parameter has no value here: `Config.params` is built from constants
without a body, so that nothing in Lean can evaluate one.
-/

namespace Sys2Proof

/-- `SYNC = 0xBB` (R4). -/
def Config.sync : Byte := 0xBB

/-- `CRC16_THRESHOLD = 12`: the encoder selects CRC-16 above it (R4, R73). -/
def Config.crc16Threshold : Nat := 12

/-- The parameters of R5, fixed for the life of an instance (R28). `QUEUE_DEPTH`, `NOTIFY_CAP` and `SCRATCH_SIZE` are at
least 1 (R5): each is stored less one, and read through `Params.queueDepth`, `Params.notifyCap`, `Params.scratchSize`. -/
structure Params where
  t8               : Vector Byte 256
  t16              : Vector Word16 256
  queueDepthLess1  : Nat
  notifyCapLess1   : Nat
  scratchSizeLess1 : Nat
  sysPing          : Byte
  sysReboot        : Byte
  sysBlinkOn       : Byte
  sysBlinkOff      : Byte
  sysFwUpgrade     : Byte
  /-- `READ_TIMEOUT`: no rule depends on its value (R5, D11). -/
  readTimeout      : Nat
  gracePeriod      : Nat
  deriving DecidableEq, Repr

/-- `QUEUE_DEPTH` (R5, D8). -/
def Params.queueDepth (c : Params) : Nat := c.queueDepthLess1 + 1
/-- `NOTIFY_CAP` (R5, D9). -/
def Params.notifyCap (c : Params) : Nat := c.notifyCapLess1 + 1
/-- `SCRATCH_SIZE` (R5, D12). -/
def Params.scratchSize (c : Params) : Nat := c.scratchSizeLess1 + 1

/-- The five action bytes are pairwise distinct (R5, R137). -/
abbrev Params.distinct (c : Params) : Prop :=
  [c.sysPing, c.sysReboot, c.sysBlinkOn, c.sysBlinkOff, c.sysFwUpgrade].Nodup

/-- `T8` (R5, R90, D2: open). -/
opaque Config.t8 : Fin 256 → Byte
/-- `T16` (R5, R90, D2: open). -/
opaque Config.t16 : Fin 256 → Word16
/-- `QUEUE_DEPTH - 1` (open). -/
opaque Config.queueDepthLess1 : Nat
/-- `NOTIFY_CAP - 1` (open). -/
opaque Config.notifyCapLess1 : Nat
/-- `SCRATCH_SIZE - 1` (open). -/
opaque Config.scratchSizeLess1 : Nat
/-- An unknown one-to-one map on bytes, whose values at 0 to 4 are the five action bytes: any five pairwise distinct
bytes are such values, and nothing else is known of them (R5, U2). -/
opaque Config.sysCode : Equiv.Perm Byte
/-- `READ_TIMEOUT` (open). -/
opaque Config.readTimeout : Nat
/-- `GRACE_PERIOD` (open). -/
opaque Config.gracePeriod : Nat

/-- A FREE VALUE: which of two enabled steps of a wait is taken, WAKE or the wait's own ending (R154, R212 (c), U9). The
argument is the number of such choices drawn so far. DESIGN CHOICE (log entry 10): nothing constrains it; safe. -/
opaque Config.takesWake : Nat → Bool

/-- The parameters of this instance. DESIGN CHOICE (log entry 1): held in the state and unknown at reset; safe. -/
def Config.params : Params where
  t8 := Vector.ofFn Config.t8
  t16 := Vector.ofFn Config.t16
  queueDepthLess1 := Config.queueDepthLess1
  notifyCapLess1 := Config.notifyCapLess1
  scratchSizeLess1 := Config.scratchSizeLess1
  sysPing := Config.sysCode 0
  sysReboot := Config.sysCode 1
  sysBlinkOn := Config.sysCode 2
  sysBlinkOff := Config.sysCode 3
  sysFwUpgrade := Config.sysCode 4
  readTimeout := Config.readTimeout
  gracePeriod := Config.gracePeriod

end Sys2Proof
end

