-- ==== Sys2Proof/Machine/Crc.lean ====
section
/-!
DEFINITION. The checksum unit (40_crc.md): bit reversal and the two table-driven checksums. The tables are parameters
(R5, R90); nothing but the sample instantiation at the end depends on their values.
-/

namespace Sys2Proof

/-- `rev8(b)[i] = b[7-i]` (R91). -/
def rev8 (b : Byte) : Byte := b.reverse

/-- `rev16(v)[i] = v[15-i]`: all 16 bits, not each byte (R91, D2). -/
def rev16 (v : Word16) : Word16 := v.reverse

/-- One fold of the CRC-8: `c <- T8[c XOR rev8(b)]` (R92). -/
def crc8Fold (par : Params) (c b : Byte) : Byte :=
  let i := c ^^^ rev8 b
  par.t8[i.toNat]'(i.isLt)

/-- `crc8(s)`: seed zero, the final value bit-reversed, no final XOR (R92). -/
def crc8 (par : Params) (s : List Byte) : Byte := rev8 (s.foldl (crc8Fold par) 0)

/-- One fold of the CRC-16: `c <- (c >> 8) XOR T16[(c XOR rev8(b))[7:0]]` (R93). -/
def crc16Fold (par : Params) (c : Word16) (b : Byte) : Word16 :=
  let i : Byte := (c ^^^ (rev8 b).setWidth 16).setWidth 8
  (c >>> 8) ^^^ par.t16[i.toNat]'(i.isLt)

/-- `crc16(s)` (R93). -/
def crc16 (par : Params) (s : List Byte) : Word16 := rev16 (s.foldl (crc16Fold par) 0)

/-! The sample instantiation S (R97): tables of the spec's own, for test vectors only and never the hardware's. -/

/-- `n` left shifts of an entry of `T8_S`, XOR `0x07` after each that drops a 1 (R97). -/
def sampleShift8 : Nat → Byte → Byte
  | 0, v => v
  | n + 1, v => sampleShift8 n (if v.getLsbD 7 then (v <<< 1) ^^^ 0x07 else v <<< 1)

/-- `n` right shifts of an entry of `T16_S`, XOR `0x8408` after each that drops a 1 (R97). -/
def sampleShift16 : Nat → Word16 → Word16
  | 0, v => v
  | n + 1, v => sampleShift16 n (if v.getLsbD 0 then (v >>> 1) ^^^ 0x8408 else v >>> 1)

/-- `T8_S`: entry `i` is `i` after eight shifts (R97). -/
def sampleT8 : Vector Byte 256 :=
  ⟨((List.range 256).map (fun i => sampleShift8 8 (BitVec.ofNat 8 i))).toArray, by simp⟩

/-- `T16_S`: entry `i` is `i` after eight shifts (R97). -/
def sampleT16 : Vector Word16 256 :=
  ⟨((List.range 256).map (fun i => sampleShift16 8 (BitVec.ofNat 16 i))).toArray, by simp⟩

/-- The parameters with the tables of S in place of the hardware's unknown ones (R97). -/
def Params.withSampleTables (par : Params) : Params := { par with t8 := sampleT8, t16 := sampleT16 }

end Sys2Proof
end

