-- ==== Sys2Proof/Machine/Flags.lean ====
section
/-!
DEFINITION. Every flag and field of the header bytes (30_encoding.md R62, R63, R68; 10_state.md R18 (a)), how a header
byte is put together from its fields (R61 to R63, 44_encoder_send.md R181), and the choice of form and kind they make
(R66, R69). The block has no arithmetic condition codes (R18); its status flags `overflow` and `stop` are in State.
-/

namespace Sys2Proof

/-- `byte2[7]`: 1 host-originated, 0 device-originated (R62). -/
def originOf (b2 : Byte) : Origin := if b2.getLsbD 7 then .host else .device
/-- `byte2[6]`: `replyRequested` or `isError` (R62, R70). -/
def roleOf (b2 : Byte) : Bool := b2.getLsbD 6
/-- `byte2[5]`: embedded data (R62). -/
def embeddedOf (b2 : Byte) : Bool := b2.getLsbD 5
/-- `byte2[4:0]`: command code (R62). -/
def commandOf (b2 : Byte) : BitVec 5 := b2.extractLsb' 0 5
/-- `byte3[7]`: the CRC-size flag (R63). -/
def crc16selOf (b3 : Byte) : Bool := b3.getLsbD 7
/-- `byte3[6:0]`: the payload length (R63). -/
def lengthOf (b3 : Byte) : BitVec 7 := b3.extractLsb' 0 7

/-- The origin as the wire bit (R62, R77). -/
def Origin.bit : Origin → Bool
  | .host => true
  | .device => false

/-- Byte 2 from its fields (R62, R181). -/
def flagsByte (o : Origin) (role embedded : Bool) (command : BitVec 5) : Byte :=
  BitVec.ofBool o.bit ++ BitVec.ofBool role ++ BitVec.ofBool embedded ++ command

/-- Byte 3 of a frame that is not embedded (R63). -/
def lengthByte (crc16sel : Bool) (len : BitVec 7) : Byte := BitVec.ofBool crc16sel ++ len

/-- The form, selected by bytes 2 and 3 in this order of tests (R66). -/
def formOf (b2 b3 : Byte) : Form :=
  if embeddedOf b2 then .emb
  else if lengthOf b3 = 0 then .empty
  else if crc16selOf b3 then .crc16
  else .crc8

/-- The kind, selected by origin and by whether the command is zero (R69, R132). -/
def kindOf (o : Origin) (command : BitVec 5) : Kind :=
  match o with
  | .host => if command = 0 then .systemRequest else .customRequest
  | .device => if command = 0 then .systemReport else .customReply

/-- The kind byte 2 selects (R69). -/
def kindOfFlags (b2 : Byte) : Kind := kindOf (originOf b2) (commandOf b2)

/-- The 16-bit checksum received as two bytes, first byte high (R43, R96). -/
def bePair (hi lo : Byte) : Word16 := hi ++ lo
/-- Bits 15 to 8, first on the wire (R43, R65). -/
def highByte (v : Word16) : Byte := v.extractLsb' 8 8
/-- Bits 7 to 0, second on the wire (R43, R65). -/
def lowByte (v : Word16) : Byte := v.extractLsb' 0 8

/-- The codes of R77 (D14): the spec's own, which no rule's result depends on. -/
def PState.code : PState → BitVec 4
  | .searchHeader => 0
  | .waitAddress => 1
  | .waitCommand => 2
  | .waitDataLength => 3
  | .waitHeaderCrc8 => 4
  | .waitExtraData => 5
  | .waitExtraDataCrc8 => 6
  | .waitExtraDataCrc16a => 7
  | .waitExtraDataCrc16b => 8

/-- Packet kind codes: origin and "command not 0", high bit first (R77). -/
def Kind.code : Kind → BitVec 2
  | .systemReport => 0
  | .customReply => 1
  | .systemRequest => 2
  | .customRequest => 3

/-- Port role codes (R77). -/
def Role.code : Role → BitVec 2
  | .monitor => 0
  | .host => 1
  | .device => 2

/-- Port result codes (R77, R201). -/
def RecvResult.code : RecvResult → BitVec 2
  | .ok _ => 0
  | .none => 1
  | .timeout => 2
  | .cancelled => 3

/-- System action tags, internal (R77). -/
def Action.code : Action → BitVec 3
  | .unknown => 0
  | .ping => 1
  | .reboot => 2
  | .blinkOn => 3
  | .blinkOff => 4
  | .firmwareUpgrade => 5

end Sys2Proof
end

