-- ==== Sys2Proof/Syntax.lean ====
section
/-!
DEFINITION. The instructions: one constructor for each of the 61 rows of spec/opcode_table.json (30_encoding.md R80).
Operands are the row's fields. A condition a row's pattern cannot express is in WellFormed.lean.
-/

namespace Sys2Proof

/-- The instruction set (R1: "the bits of an incoming frame select what the block does"; R80). -/
inductive Instr where
  -- FRAME: the four forms (R66). `sum` is the trailing checksum as received (R65): it may or may not match.
  /-- `EMB`: header fields and the one payload byte. -/
  | frameEmb (h : Head) (datum : Byte)
  /-- `EMPTY`: `s` is the CRC-size flag, ignored when the length is 0. -/
  | frameEmpty (h : Head) (s : Bool)
  /-- `CRC8`: payload of 1 to 127 bytes and one trailing byte. -/
  | frameCrc8 (h : Head) (payload : Payload) (sum : Byte)
  /-- `CRC16`: payload of 1 to 127 bytes and two trailing bytes, big-endian. -/
  | frameCrc16 (h : Head) (payload : Payload) (sum : Word16)
  -- PKT: the four kinds (R69), each applied to a frame record.
  | pktCustomRequest (rec : FrameRecord)
  | pktCustomReply (rec : FrameRecord)
  | pktSystemRequest (rec : FrameRecord)
  | pktSystemReport (rec : FrameRecord)
  -- SUB: the sub-decodes of system packets (R137, R138).
  | subPing (p : Packet)
  | subReboot (p : Packet)
  | subBlinkOn (p : Packet)
  | subBlinkOff (p : Packet)
  | subFwUpgrade (p : Packet)
  | subSysUnknown (p : Packet)
  | subDupAddr (p : Packet)
  | subErrCode (p : Packet)
  -- TRANS: the parser transitions (R101 to R120), `b` the input byte.
  | tSearchSkip (b : Byte)
  | tSearchSync
  | tAddr (b : Byte)
  | tCmd (b : Byte)
  | tLen (b : Byte)
  | tHcrcOkEmb (b : Byte)
  | tHcrcOkEmpty (b : Byte)
  | tHcrcOkData (b : Byte)
  | tHcrcBadNoroll (b : Byte)
  | tHcrcBadRollback (b : Byte)
  | tDataMore (b : Byte)
  | tDataLast8 (b : Byte)
  | tDataLast16 (b : Byte)
  | tPcrc8Ok (b : Byte)
  | tPcrc8Bad (b : Byte)
  | tPcrc16a (b : Byte)
  | tPcrc16bOk (b : Byte)
  | tPcrc16bBad (b : Byte)
  -- FUNC (R91 to R93, R121, R122, R130).
  | fnCrc8 (bytes : List Byte)
  | fnCrc16 (bytes : List Byte)
  | fnRev8 (b : Byte)
  | fnRev16 (v : Word16)
  | fnEmit (addr flags : Byte) (payload : Payload)
  | fnReturnToSearch
  | fnClassify (rec : FrameRecord)
  -- ENC: the four encoder cases (R182 to R185).
  | encEmb (p : Packet)
  | encEmpty (p : Packet)
  | encCrc8 (p : Packet)
  | encCrc16 (p : Packet)
  -- PORT (R150 to R161, R189, R234). The role is part of the row, but for TRYSEND.
  | tryRecvMonitor
  | recvMonitor (timeout : Timeout)
  | recvcMonitor (sig : Nat)
  | recvHost (timeout : Timeout)
  | recvcHost (sig : Nat)
  | recvDevice (timeout : Timeout)
  | recvcDevice (sig : Nat)
  | tryRecvHost
  | tryRecvDevice
  | trySend (role : Role) (d : Draft)
  | shutdown
  | enqueue (p : Packet)
  | overflowDrop (p : Packet)
  | signal
  | tryDequeue
  | waitNotifier (limit : Limit)
  deriving DecidableEq, Repr

end Sys2Proof
end

