-- ==== Sys2Proof/Machine/Operands.lean ====
section
/-!
DEFINITION. Operand forms: payloads, frame records and Packets; the classifier as a pure function (42_classifier.md);
construction of a Packet by a sender (R143); the rights of the port roles (R158, R190); the limit of a wait (R156).
-/

namespace Sys2Proof

/-- The empty payload. -/
def Payload.empty : Payload := ⟨[], Nat.zero_le _⟩

/-- The payload of one byte. -/
def Payload.one (b : Byte) : Payload := ⟨[b], by simp⟩

/-- The first `n` bytes of a list, `n` a 7-bit length (R15, R63). -/
def Payload.take (n : BitVec 7) (l : List Byte) : Payload :=
  ⟨l.take n.toNat, by
    have h := n.isLt
    simp only [List.length_take]
    omega⟩

/-- The header fields that byte 1 and byte 2 carry (R68). -/
def Head.ofBytes (addr b2 : Byte) : Head := ⟨addr, originOf b2, roleOf b2, commandOf b2⟩

/-- The header fields of a Packet (R181). -/
def Packet.head (p : Packet) : Head := ⟨p.address, p.origin, p.roleFlag, p.command⟩

/-- `kind_of` (R20, R132). -/
def Packet.kind (p : Packet) : Kind := kindOf p.origin p.command

/-- The invariants (c) and (d) of R139; (a) and (b) hold by the field types. -/
def Packet.valid (p : Packet) : Bool :=
  !(p.origin == .device && p.address == 0) &&
  !(p.origin == .host && p.command != 0 && p.roleFlag && p.address == 0)

/-- Field extraction (R131): the embedded bit is not part of the Packet. -/
def FrameRecord.extract (r : FrameRecord) : Packet :=
  ⟨originOf r.flags, r.addr, roleOf r.flags, commandOf r.flags, r.payload⟩

/-- `classify(rec)`: a Packet, or nothing where the fields spell none (R130, R139). -/
def classify (r : FrameRecord) : Option Packet :=
  if r.extract.valid then some r.extract else none

/-- `action(p)` of a system request (R137). -/
def Packet.action (par : Params) (p : Packet) : Action :=
  match p.payload.val with
  | [] => .unknown
  | b :: _ =>
    if b = par.sysPing then .ping
    else if b = par.sysReboot then .reboot
    else if b = par.sysBlinkOn then .blinkOn
    else if b = par.sysBlinkOff then .blinkOff
    else if b = par.sysFwUpgrade then .firmwareUpgrade
    else .unknown

/-- `duplicateAddress(p)` of a system report (R138). -/
def Packet.duplicateAddress (p : Packet) : Bool := p.payload.val.isEmpty && p.roleFlag

/-- `errorCode(p)` of a system report (R138). -/
def Packet.errorCode (p : Packet) : Option Byte := p.payload.val.head?

/-- A payload from bytes, unless there are too many (R143). -/
def Payload.ofBytes (l : List Byte) : Option Payload :=
  if h : l.length ≤ 127 then some ⟨l, h⟩ else none

/-- The common tail of the four constructors: the ranges `addr`, `cmd` and payload must be in, and R139 (R143). -/
def Packet.build (o : Origin) (addr cmd : Nat) (l : List Byte) (flag : Bool) : Option Packet :=
  match Payload.ofBytes l with
  | none => none
  | some pl =>
    let p : Packet := ⟨o, BitVec.ofNat 8 addr, flag, BitVec.ofNat 5 cmd, pl⟩
    if addr ≤ 255 && cmd ≤ 31 && p.valid then some p else none

/-- The four constructors (R143); `none` is a construction error (R202). -/
def Draft.construct : Draft → Option Packet
  | .customRequest a c l rr => if c = 0 then none else Packet.build .host a c l rr
  | .customReply a c l err => if c = 0 then none else Packet.build .device a c l err
  | .systemRequest a l rr => Packet.build .host a 0 l rr
  | .systemReport a l err => Packet.build .device a 0 l err

/-- The filter of a port (R158): by origin only. -/
def Role.accepts : Role → Packet → Bool
  | .monitor, _ => true
  | .host, p => p.origin == .device
  | .device, p => p.origin == .host

/-- What a port may send (R190): the capability marker of a packet equals its origin (R141). -/
def Role.maySend : Role → Packet → Bool
  | .monitor, _ => true
  | .host, p => p.origin == .host
  | .device, p => p.origin == .device

/-- `until` of a timed receive: the deadline is fixed at the call (R156, R159). -/
def Timeout.limit (now : Nat) : Timeout → Limit
  | .infinite => .forever
  | .after d => .deadline (now + d)

/-- The code a receive ends with when its own limit ends it (R156, R157); a wait without a limit is never so ended. -/
def Limit.recvCode : Limit → RecvResult
  | .forever => .none
  | .deadline _ => .timeout
  | .cancel _ => .cancelled

/-- What `wait_notifier` returns when its own limit ends it (R154); a wait without a limit is never so ended. -/
def Limit.waitCode : Limit → WaitResult
  | .forever => .woken
  | .deadline _ => .timedOut
  | .cancel _ => .aborted

/-- The part of the queue a filtered receive goes through (R159 to R161): the first entry the port accepts, if any, and
what is left behind it; every entry passed over is discarded. -/
def firstAccepted (role : Role) : List Packet → Option Packet × List Packet
  | [] => (none, [])
  | p :: q => if role.accepts p then (some p, q) else firstAccepted role q

end Sys2Proof
end

