-- ==== Sys2Proof/WellFormed.lean ====
section
/-!
DEFINITION. Which instruction terms are instructions: the conditions that the rows of spec/opcode_table.json name
beside their bit patterns ("constraints") and that depend on the operands alone. A condition on the machine's state
(the parser's transitions) is no part of this: it is checked where the transition is taken (R100).
-/

namespace Sys2Proof

/-- A Packet operand of a system-request sub-decode: it is a Packet, a system request, and selects that action (R137). -/
def subRequestWf (par : Params) (a : Action) (p : Packet) : Bool :=
  p.valid && p.kind == .systemRequest && p.action par == a

/-- The well-formed instructions, given the parameters (the five action bytes are open, R71). -/
def Instr.wf (par : Params) : Instr → Bool
  | .frameEmb _ _ => true
  | .frameEmpty _ _ => true
  | .frameCrc8 _ pl _ => !pl.val.isEmpty
  | .frameCrc16 _ pl _ => !pl.val.isEmpty
  | .pktCustomRequest r => kindOfFlags r.flags == .customRequest
  | .pktCustomReply r => kindOfFlags r.flags == .customReply
  | .pktSystemRequest r => kindOfFlags r.flags == .systemRequest
  | .pktSystemReport r => kindOfFlags r.flags == .systemReport
  | .subPing p => subRequestWf par .ping p
  | .subReboot p => subRequestWf par .reboot p
  | .subBlinkOn p => subRequestWf par .blinkOn p
  | .subBlinkOff p => subRequestWf par .blinkOff p
  | .subFwUpgrade p => subRequestWf par .firmwareUpgrade p
  | .subSysUnknown p => subRequestWf par .unknown p
  | .subDupAddr p => p.valid && p.kind == .systemReport && p.duplicateAddress
  | .subErrCode p => p.valid && p.kind == .systemReport && p.errorCode.isSome
  | .tSearchSkip b => b != Config.sync
  | .tSearchSync => true
  | .tAddr _ => true
  | .tCmd _ => true
  | .tLen _ => true
  | .tHcrcOkEmb _ => true
  | .tHcrcOkEmpty _ => true
  | .tHcrcOkData _ => true
  | .tHcrcBadNoroll _ => true
  | .tHcrcBadRollback _ => true
  | .tDataMore _ => true
  | .tDataLast8 _ => true
  | .tDataLast16 _ => true
  | .tPcrc8Ok _ => true
  | .tPcrc8Bad _ => true
  | .tPcrc16a _ => true
  | .tPcrc16bOk _ => true
  | .tPcrc16bBad _ => true
  | .fnCrc8 _ => true
  | .fnCrc16 _ => true
  | .fnRev8 _ => true
  | .fnRev16 _ => true
  | .fnEmit _ _ _ => true
  | .fnReturnToSearch => true
  | .fnClassify _ => true
  | .encEmb p => p.valid && p.payload.val.length == 1
  | .encEmpty p => p.valid && p.payload.val.length == 0
  | .encCrc8 p => p.valid && 2 ≤ p.payload.val.length && p.payload.val.length ≤ Config.crc16Threshold
  | .encCrc16 p => p.valid && Config.crc16Threshold < p.payload.val.length
  | .tryRecvMonitor => true
  | .recvMonitor _ => true
  | .recvcMonitor _ => true
  | .recvHost _ => true
  | .recvcHost _ => true
  | .recvDevice _ => true
  | .recvcDevice _ => true
  | .tryRecvHost => true
  | .tryRecvDevice => true
  | .trySend _ _ => true
  | .shutdown => true
  | .enqueue p => p.valid
  | .overflowDrop p => p.valid
  | .signal => true
  | .tryDequeue => true
  | .waitNotifier _ => true

end Sys2Proof
end

