-- ==== Sys2Proof/Decode.lean ====
section
/-!
DEFINITION. The decoder of the wire format, total on any bytes and rejecting by name, the words the opcode table
numbers, and after them the encoder (30_encoding.md sections 1 to 4; 44_encoder_send.md R180 to R186). Which transition a
byte selects depends on the parser's state and is `selectTrans` in Machine/Select.lean (41_parser.md R100). Ports and
functions have no bit pattern in any source (R80), so no word decodes to one.
-/

namespace Sys2Proof

/-- Why a byte sequence does not start with a whole frame. -/
inductive Reject where
  /-- The first byte is not `0xBB` (R76). -/
  | noSync
  /-- The fifth byte is not the CRC-8 of the first four: "not a frame" (R76). -/
  | headerCrc
  /-- The sequence ends before the frame does (R67). -/
  | truncated
  deriving DecidableEq, Repr

/-- What follows a header whose checksum matched (R66, R67): the frame and the bytes after it. The trailing checksum is
taken as received; whether it matches is the parser's business (R116 to R120). -/
def decodeBody (addr b2 b3 : Byte) (rest : List Byte) : Except Reject (Instr × List Byte) :=
  let h := Head.ofBytes addr b2
  let n := lengthOf b3
  match formOf b2 b3 with
  | .emb => .ok (.frameEmb h b3, rest)
  | .empty => .ok (.frameEmpty h (crc16selOf b3), rest)
  | .crc8 =>
    match rest.drop n.toNat with
    | s :: more => .ok (.frameCrc8 h (Payload.take n rest) s, more)
    | [] => .error .truncated
  | .crc16 =>
    match rest.drop n.toNat with
    | s1 :: s0 :: more => .ok (.frameCrc16 h (Payload.take n rest) (bePair s1 s0), more)
    | _ => .error .truncated

/-- The frame at the head of a byte sequence (R60 to R67), and the bytes after it. -/
def decodeFrame (par : Params) : List Byte → Except Reject (Instr × List Byte)
  | [] => .error .truncated
  | b0 :: more =>
    if b0 = Config.sync then
      match more with
      | b1 :: b2 :: b3 :: b4 :: rest =>
        if b4 = crc8 par [b0, b1, b2, b3] then decodeBody b1 b2 b3 rest else .error .headerCrc
      | _ => .error .truncated
    else .error .noSync

/-- The frame instruction that header bytes 2 and 3 select when every other bit of the frame is 0 (R66). -/
def decodeHeaderWord (b2 b3 : Byte) : Instr :=
  let h := Head.ofBytes 0 b2
  let zeros := Payload.take (lengthOf b3) (List.replicate 127 0)
  match formOf b2 b3 with
  | .emb => .frameEmb h b3
  | .empty => .frameEmpty h (crc16selOf b3)
  | .crc8 => .frameCrc8 h zeros 0
  | .crc16 => .frameCrc16 h zeros 0

/-- The classification that byte 2 selects for a record whose other bits are 0 (R69). -/
def decodeKindWord (b2 : Byte) : Instr :=
  let r : FrameRecord := ⟨0, b2, Payload.empty⟩
  match kindOfFlags b2 with
  | .customRequest => .pktCustomRequest r
  | .customReply => .pktCustomReply r
  | .systemRequest => .pktSystemRequest r
  | .systemReport => .pktSystemReport r

/-- The words of spec/opcode_table.json: 16 bits are header bytes 2 and 3 (byte 2 in bits 15 to 8, as the table numbers
them), 8 bits are the sync byte or else header byte 2. DESIGN CHOICE (log entry 15): the sync byte's row and a kind's row
overlap at 0xBB, where the sync byte is read; safe. -/
def decodeTableWord (nbits w : Nat) : Option Instr :=
  if nbits = 16 then some (decodeHeaderWord (BitVec.ofNat 8 (w / 256)) (BitVec.ofNat 8 w))
  else if nbits = 8 then
    if BitVec.ofNat 8 w = Config.sync then some .tSearchSync else some (decodeKindWord (BitVec.ofNat 8 w))
  else none

/-! The encoder. -/

/-- The five header bytes (R61, R64, R181). -/
def headerBytes (par : Params) (h : Head) (embedded : Bool) (b3 : Byte) : List Byte :=
  let b := [Config.sync, h.addr, flagsByte h.origin h.role embedded h.command, b3]
  b ++ [crc8 par b]

/-- The bytes of form `EMB` (R66). -/
def embBytes (par : Params) (h : Head) (datum : Byte) : List Byte := headerBytes par h true datum

/-- The bytes of form `EMPTY` (R66). -/
def emptyBytes (par : Params) (h : Head) (s : Bool) : List Byte := headerBytes par h false (lengthByte s 0)

/-- The bytes of form `CRC8` with trailing byte `sum` (R65, R66). -/
def crc8Bytes (par : Params) (h : Head) (pl : Payload) (sum : Byte) : List Byte :=
  headerBytes par h false (lengthByte false (BitVec.ofNat 7 pl.val.length)) ++ pl.val ++ [sum]

/-- The bytes of form `CRC16` with trailing checksum `sum`, big-endian (R43, R65, R66). -/
def crc16Bytes (par : Params) (h : Head) (pl : Payload) (sum : Word16) : List Byte :=
  headerBytes par h false (lengthByte true (BitVec.ofNat 7 pl.val.length)) ++ pl.val ++ [highByte sum, lowByte sum]

/-- `encode(p)`: the canonical frame of a Packet, the case chosen by the payload length (R73, R180, R182 to R185). -/
def encodePacket (par : Params) (p : Packet) : List Byte :=
  match p.payload.val with
  | [] => emptyBytes par p.head false
  | [b] => embBytes par p.head b
  | l => if l.length ≤ Config.crc16Threshold then crc8Bytes par p.head p.payload (crc8 par l)
         else crc16Bytes par p.head p.payload (crc16 par l)

/-- The bytes an instruction stands for on the wire: a whole frame for a frame form; the one byte the row's pattern is
over for a kind, a sub-decode and a transition; none where the table gives no pattern (R80). -/
def Instr.encode (par : Params) : Instr → Option (List Byte)
  | .frameEmb h d => some (embBytes par h d)
  | .frameEmpty h s => some (emptyBytes par h s)
  | .frameCrc8 h pl s => some (crc8Bytes par h pl s)
  | .frameCrc16 h pl s => some (crc16Bytes par h pl s)
  | .pktCustomRequest r => some [r.flags]
  | .pktCustomReply r => some [r.flags]
  | .pktSystemRequest r => some [r.flags]
  | .pktSystemReport r => some [r.flags]
  | .subPing p => p.errorCode.map ([·])
  | .subReboot p => p.errorCode.map ([·])
  | .subBlinkOn p => p.errorCode.map ([·])
  | .subBlinkOff p => p.errorCode.map ([·])
  | .subFwUpgrade p => p.errorCode.map ([·])
  | .subSysUnknown p => p.errorCode.map ([·])
  | .subDupAddr _ => none
  | .subErrCode p => p.errorCode.map ([·])
  | .tSearchSkip b => some [b]
  | .tSearchSync => some [Config.sync]
  | .tAddr b => some [b]
  | .tCmd b => some [b]
  | .tLen b => some [b]
  | .tHcrcOkEmb b => some [b]
  | .tHcrcOkEmpty b => some [b]
  | .tHcrcOkData b => some [b]
  | .tHcrcBadNoroll b => some [b]
  | .tHcrcBadRollback b => some [b]
  | .tDataMore b => some [b]
  | .tDataLast8 b => some [b]
  | .tDataLast16 b => some [b]
  | .tPcrc8Ok b => some [b]
  | .tPcrc8Bad b => some [b]
  | .tPcrc16a b => some [b]
  | .tPcrc16bOk b => some [b]
  | .tPcrc16bBad b => some [b]
  | .fnCrc8 _ => none
  | .fnCrc16 _ => none
  | .fnRev8 _ => none
  | .fnRev16 _ => none
  | .fnEmit _ _ _ => none
  | .fnReturnToSearch => none
  | .fnClassify _ => none
  | .encEmb _ => none
  | .encEmpty _ => none
  | .encCrc8 _ => none
  | .encCrc16 _ => none
  | .tryRecvMonitor => none
  | .recvMonitor _ => none
  | .recvcMonitor _ => none
  | .recvHost _ => none
  | .recvcHost _ => none
  | .recvDevice _ => none
  | .recvcDevice _ => none
  | .tryRecvHost => none
  | .tryRecvDevice => none
  | .trySend _ _ => none
  | .shutdown => none
  | .enqueue _ => none
  | .overflowDrop _ => none
  | .signal => none
  | .tryDequeue => none
  | .waitNotifier _ => none

end Sys2Proof
end

