-- ==== Sys2Proof/Machine/State.lean ====
section
/-!
DEFINITION. The state as plain data: everything 10_state.md gives the machine, the agents' own state (R26, 60 R215), the
two streams (20 R40, R41), and the model's own fields (INVENTORY.md, State). Reset is R29 and R231.
-/

namespace Sys2Proof.Machine

/-- Why a step stops. It is the model's own: the hardware has no traps (R213). -/
inductive Fault where
  /-- Raised by a byte or a frame that the reader takes where the payload counters break R30 (d) in `WaitExtraData`: no row of R100 applies, or the payload index
  does not exist (R123, U15). No run reaches it. Log entry 14; safe. -/
  | noTransition
  deriving DecidableEq, Repr

/-- Why an instruction has no meaning. No meaning of this model answers with a refusal. -/
inductive Refusal where
  /-- Raised by an arm of `exec` whose instruction has no meaning yet; safe. No arm does. -/
  | notModelled (mnemonic : String)
  deriving DecidableEq, Repr

/-- The write-domain state, owned by the reader (R10 (a)). -/
structure Parser where
  /-- Parser state register (R11). -/
  st        : PState
  /-- Header buffer (R12). -/
  hdr       : Vector Byte 4
  /-- Rollback candidate (R13). -/
  rb        : Option Cand
  /-- Declared payload length (R14). -/
  paylen    : BitVec 7
  /-- Payload bytes still to arrive (R14). -/
  remaining : BitVec 7
  /-- Payload buffer (R15). -/
  pay       : Vector Byte 127
  /-- First received CRC-16 byte (R16). -/
  crcHi     : Byte
  deriving DecidableEq, Repr

/-- The send token (R25). -/
inductive Token where
  | free | held
  deriving DecidableEq, Repr

/-- What a call in progress on the read side is: a receive on a port of a role, or a wait on its own. -/
inductive CallKind where
  | receive (role : Role)
  | wait
  deriving DecidableEq, Repr

/-- Where a call stands: about to take the queue lock, or blocked on the notifier (R26, R154). -/
inductive CallPhase where
  | ready | waiting
  deriving DecidableEq, Repr

/-- A consumer's call in progress (R26): its own number, what it is, what ends its wait (`none`: it never waits, the
shape `TRYRECV`), and where it stands. -/
structure Call where
  id    : Nat
  kind  : CallKind
  limit : Option Limit
  phase : CallPhase
  deriving DecidableEq, Repr

/-- Which numbered line of R189 a send takes next. -/
inductive SendPhase where
  /-- Line 2, blocked while the token is held. -/
  | acquire
  /-- Line 3. -/
  | write
  /-- Line 4, with what line 3 gave. -/
  | release (r : SendResult)
  deriving DecidableEq, Repr

/-- A send in progress: its own number, the serialised frame (line 1 of R189), and where it stands. -/
structure Send where
  id    : Nat
  bytes : List Byte
  phase : SendPhase
  deriving DecidableEq, Repr

/-- Where the reader loop stands (R233). -/
inductive Reader where
  /-- Between iterations: `stop` is examined next. -/
  | between
  /-- In a read of the stream. -/
  | reading
  /-- Bytes the read returned, still to be fed to the parser in order. -/
  | feeding (left : List Byte)
  /-- Stopped for good (R234). -/
  | halted
  deriving DecidableEq, Repr

/-- Where SHUTDOWN stands (R234). -/
inductive ShutdownPhase where
  | notBegun
  /-- Line 2, waiting until the given time. -/
  | grace (t : Nat)
  /-- Line 3 is done: the stream is flushed and closed. -/
  | closed
  deriving DecidableEq, Repr

/-- The shapes of a receive (R155 to R157). -/
inductive Shape where
  | attempt
  | timed (t : Timeout)
  | cancellable (sig : Nat)
  deriving DecidableEq, Repr

/-- What an operation returned to its caller (R7 `raise`, R201). -/
inductive Output where
  | received (call : Nat) (r : RecvResult)
  | waited (call : Nat) (r : WaitResult)
  | sent (send : Nat) (r : SendResult)
  | dequeued (r : Option Packet)
  | byte (v : Byte)
  | word (v : Word16)
  | classified (r : Option Packet)
  | action (a : Action)
  | duplicateAddress (b : Bool)
  | errorCode (c : Option Byte)
  /-- The Packet is of a kind that does not have the attribute asked for (R137, R138). Log entry 13. -/
  | noAttribute
  | frame (bytes : List Byte)
  /-- The operand is no Packet: a construction error (R202). -/
  | constructionError
  deriving DecidableEq, Repr

/-- Who moves next: an agent's next atomic step, or an event of the environment (R8, R211, R215; D12). Log entry 5. -/
inductive Event where
  /-- An operation, run with no other agent's step inside it; one made only inside another is none (`runOperation`). -/
  | op (i : Instr)
  /-- A receive is called; its steps follow one by one. -/
  | startReceive (role : Role) (shape : Shape)
  /-- A send is called; its steps follow one by one. -/
  | startSend (role : Role) (d : Draft)
  /-- The call takes the queue lock once (R8, R153). -/
  | callStep (id : Nat)
  /-- The blocked call takes WAKE, EXPIRE or ABORT (R154). -/
  | wake (id : Nat)
  | expire (id : Nat)
  | abort (id : Nat)
  /-- The send takes its next numbered line (R189). -/
  | sendStep (id : Nat)
  /-- The reader takes its next step (R233). -/
  | reader
  /-- The read in progress returns up to `n` bytes, its timeout (R207), or another error (R208). -/
  | readData (n : Nat)
  | readTimeout
  | readError
  /-- The environment delivers bytes to the input stream. -/
  | arrive (bytes : List Byte)
  /-- A cancellation signal fires (R211 (3)). -/
  | fire (sig : Nat)
  /-- Time passes (R218). -/
  | elapse (d : Nat)
  /-- How the stream answers writes from now on: whole, or an error after so many bytes (R191, U11). -/
  | setWriteFault (f : Option Nat)
  /-- SHUTDOWN takes its line 3, once its line 2 is over (R234). -/
  | closeStream
  deriving DecidableEq, Repr

/-- The machine's state. -/
structure State where
  /-- The parameters, fixed for the life of an instance (R5, R28). -/
  par         : Params
  parser      : Parser
  /-- The receive queue, oldest first (R21). -/
  q           : List Packet
  /-- The notifier (R22). -/
  notifyCount : Nat
  /-- Sticky (R23). -/
  overflow    : Bool
  /-- The shutdown signal (R24). -/
  stop        : Bool
  sendToken   : Token
  /-- Calls in progress (R26), in the order they were made. -/
  calls       : List Call
  /-- Sends in progress (R189), in the order they were made. -/
  sends       : List Send
  shutdown    : ShutdownPhase
  reader      : Reader
  /-- Input stream: bytes delivered and not yet read (R40). -/
  rx          : List Byte
  /-- Output stream: every byte written, in order (R41). -/
  tx          : List Byte
  /-- Cancellation signals that have fired; once fired a signal stays fired (R211 (3)). DESIGN CHOICE (log entry 25): a
  signal is a number, and every call that names the number is ended by it. -/
  fired       : List Nat
  /-- The time base (R154, R218). -/
  now         : Nat
  /-- The model's own: after how many bytes the stream fails a write, if it does (R191, U11; log entry 9). -/
  writeFault  : Option Nat
  /-- The model's own: fresh numbers for calls and sends. -/
  nextCall    : Nat
  nextSend    : Nat
  /-- The model's own: how many open choices have been drawn (`Config.takesWake`). -/
  choices     : Nat
  /-- The model's own: everything returned to callers, oldest first. -/
  out         : List Output
  /-- The model's own: who moves next. -/
  agenda      : List Event
  deriving DecidableEq, Repr

/-- The parser at reset (R29): `hdr`, `paylen`, `remaining`, `pay`, `crc_hi` are unspecified there; zeros are a DESIGN
CHOICE (log entry 2), unsafe where a proof leans on them. -/
def Parser.reset : Parser where
  st := .searchHeader
  hdr := Vector.replicate 4 0
  rb := none
  paylen := 0
  remaining := 0
  pay := Vector.replicate 127 0
  crcHi := 0

/-- The machine right after reset (R29, R231). The environment's and the model's own fields: log entries 1, 3, 7, 9. -/
def State.reset : State where
  par := Config.params
  parser := Parser.reset
  q := []
  notifyCount := 0
  overflow := false
  stop := false
  sendToken := .free
  calls := []
  sends := []
  shutdown := .notBegun
  reader := .between
  rx := []
  tx := []
  fired := []
  now := 0
  writeFault := none
  nextCall := 0
  nextSend := 0
  choices := 0
  out := []
  agenda := []

end Sys2Proof.Machine
end

