-- ==== Sys2Proof/Machine/Select.lean ====
section
/-!
DEFINITION. Which transition a byte selects: the table of 41_parser.md R100, the parser's decoder.
-/

namespace Sys2Proof.Machine

/-- The payload collected so far as the checksums read it: `pay[0 .. paylen-1]` (R15, R95). -/
def Parser.payload (p : Parser) : Payload := Payload.take p.paylen p.pay.toList

/-- The header check (R95 (a), R96). -/
def Parser.headerCrc (par : Params) (p : Parser) : Byte := crc8 par p.hdr.toList

/-- The counters are as R30 (d) says wherever they are read: in `WaitExtraData`, `1 <= remaining <= paylen`. Elsewhere
no rule reads them. -/
def Parser.live (p : Parser) : Bool :=
  p.st != .waitExtraData || (p.remaining != 0 && p.remaining.toNat ≤ p.paylen.toNat)

/-- The transition rule R100 selects for byte `b`. `none` only where the counters break R30 (d) (R123). -/
def selectTrans (par : Params) (p : Parser) (b : Byte) : Option Trans :=
  match p.st with
  | .searchHeader => some (if b = Config.sync then .searchSync else .searchSkip)
  | .waitAddress => some .addr
  | .waitCommand => some .cmd
  | .waitDataLength => some .len
  | .waitHeaderCrc8 =>
    if b = p.headerCrc par then
      if embeddedOf p.hdr[2] then some .hcrcOkEmb
      else if lengthOf p.hdr[3] = 0 then some .hcrcOkEmpty
      else some .hcrcOkData
    else
      match p.rb with
      | none => some .hcrcBadNoroll
      | some _ => some .hcrcBadRollback
  | .waitExtraData =>
    if p.live then
      if p.remaining = 1 then some (if crc16selOf p.hdr[3] then .dataLast16 else .dataLast8)
      else some .dataMore
    else none
  | .waitExtraDataCrc8 => some (if b = crc8 par p.payload.val then .pcrc8Ok else .pcrc8Bad)
  | .waitExtraDataCrc16a => some .pcrc16a
  | .waitExtraDataCrc16b =>
    some (if bePair p.crcHi b = crc16 par p.payload.val then .pcrc16bOk else .pcrc16bBad)

/-- The instruction a transition with its input byte is (R80, format TRANS). -/
def transInstr : Trans → Byte → Instr
  | .searchSkip, b => .tSearchSkip b
  | .searchSync, _ => .tSearchSync
  | .addr, b => .tAddr b
  | .cmd, b => .tCmd b
  | .len, b => .tLen b
  | .hcrcOkEmb, b => .tHcrcOkEmb b
  | .hcrcOkEmpty, b => .tHcrcOkEmpty b
  | .hcrcOkData, b => .tHcrcOkData b
  | .hcrcBadNoroll, b => .tHcrcBadNoroll b
  | .hcrcBadRollback, b => .tHcrcBadRollback b
  | .dataMore, b => .tDataMore b
  | .dataLast8, b => .tDataLast8 b
  | .dataLast16, b => .tDataLast16 b
  | .pcrc8Ok, b => .tPcrc8Ok b
  | .pcrc8Bad, b => .tPcrc8Bad b
  | .pcrc16a, b => .tPcrc16a b
  | .pcrc16bOk, b => .tPcrc16bOk b
  | .pcrc16bBad, b => .tPcrc16bBad b

end Sys2Proof.Machine
end

