-- ==== Sys2Proof/Machine/Ops.lean ====
section
/-!
DEFINITION. The named operations over the state: header accumulation, rollback and return (41_parser.md), emission,
enqueue, the notifier (43_queue.md), the receive and the send as their caller sees them, and what an operation returns.
-/

namespace Sys2Proof.Machine

/-! What an operation returns (R7, R201). -/

/-- Hand a value to the caller of the operation. -/
def output (o : Output) (s : State) : State := { s with out := s.out ++ [o] }

/-! The parser. -/

/-- `return_to_search()` (R122): the buffers are left as they are. -/
def Parser.returnToSearch (p : Parser) : Parser := { p with st := .searchHeader, rb := none }

/-- Recording the rollback candidate (R106): the earliest position, never replaced. -/
def recordCand (k : Cand) (b : Byte) (rb : Option Cand) : Option Cand :=
  if b = Config.sync ∧ rb = none then some k else rb

/-- R102. -/
def Parser.takeSync (p : Parser) : Parser :=
  { p with hdr := p.hdr.set 0 Config.sync, rb := none, st := .waitAddress }

/-- R103. -/
def Parser.takeAddr (b : Byte) (p : Parser) : Parser :=
  { p with hdr := p.hdr.set 1 b, rb := recordCand .k1 b p.rb, st := .waitCommand }

/-- R104. -/
def Parser.takeCmd (b : Byte) (p : Parser) : Parser :=
  { p with hdr := p.hdr.set 2 b, rb := recordCand .k2 b p.rb, st := .waitDataLength }

/-- R105. -/
def Parser.takeLen (b : Byte) (p : Parser) : Parser :=
  { p with hdr := p.hdr.set 3 b, rb := recordCand .k3 b p.rb, st := .waitHeaderCrc8 }

/-- `header_step(x)`: the transition of R100 in the four states before the header check (R112). -/
def Parser.headerStep (p : Parser) (x : Byte) : Parser :=
  match p.st with
  | .searchHeader => if x = Config.sync then p.takeSync else p
  | .waitAddress => p.takeAddr x
  | .waitCommand => p.takeCmd x
  | .waitDataLength => p.takeLen x
  | _ => p

/-- The header bytes from the candidate on: `hdr[k .. 3]` (R111). -/
def Parser.fromCand (p : Parser) : Cand → List Byte
  | .k1 => [p.hdr[1], p.hdr[2], p.hdr[3]]
  | .k2 => [p.hdr[2], p.hdr[3]]
  | .k3 => [p.hdr[3]]

/-- Recovery from a failed header checksum: rollback to the candidate and replay, or plain return where there is none
(R110, R111, R112, R203). This block's analogue of taking an exception (R213): the saved state is `hdr` and `rb`. -/
def Parser.recover (b : Byte) (p : Parser) : Parser :=
  match p.rb with
  | none => p.returnToSearch
  | some k => (p.fromCand k ++ [b]).foldl Parser.headerStep p.returnToSearch

/-- Store a payload byte at `pay[paylen - remaining]` and count it (R113 to R115). -/
def Parser.storePay (b : Byte) (p : Parser) : Parser :=
  { p with pay := p.pay.setIfInBounds (p.paylen - p.remaining).toNat b, remaining := p.remaining - 1 }

/-! The queue and the notifier. -/

/-- `signal()`: saturating (R152). -/
def signal (s : State) : State :=
  { s with notifyCount := if s.notifyCount < s.par.notifyCap then s.notifyCount + 1 else s.notifyCount }

/-- `overflow_drop(p)`: the packet is discarded (R151). -/
def overflowDrop (_p : Packet) (s : State) : State := { s with overflow := true }

/-- `enqueue(p)`: append, then signal (R150, R50). -/
def enqueue (p : Packet) (s : State) : State :=
  if s.q.length < s.par.queueDepth then signal { s with q := s.q ++ [p] } else overflowDrop p s

/-- `emit(addr, flags, payload)`: classify, and enqueue what it gives (R121, R130). -/
def emit (addr flags : Byte) (payload : Payload) (s : State) : State :=
  match classify ⟨addr, flags, payload⟩ with
  | some p => enqueue p s
  | none => s

/-! The parser step. -/

/-- Change the parser alone. -/
def onParser (f : Parser → Parser) (s : State) : State := { s with parser := f s.parser }

/-- `emit` the frame whose payload is `pl`, then return to search (R107, R108, R116, R119). -/
def complete (pl : Payload) (s : State) : State :=
  onParser Parser.returnToSearch (emit s.parser.hdr[1] s.parser.hdr[2] pl s)

/-- What each transition does, once selected (R101 to R120). -/
def applyTrans (t : Trans) (b : Byte) (s : State) : State :=
  match t with
  | .searchSkip => s
  | .searchSync => onParser Parser.takeSync s
  | .addr => onParser (Parser.takeAddr b) s
  | .cmd => onParser (Parser.takeCmd b) s
  | .len => onParser (Parser.takeLen b) s
  | .hcrcOkEmb => complete (Payload.one s.parser.hdr[3]) s
  | .hcrcOkEmpty => complete Payload.empty s
  | .hcrcOkData => onParser (fun p =>
      { p with paylen := lengthOf p.hdr[3], remaining := lengthOf p.hdr[3], st := .waitExtraData }) s
  | .hcrcBadNoroll => onParser (Parser.recover b) s
  | .hcrcBadRollback => onParser (Parser.recover b) s
  | .dataMore => onParser (Parser.storePay b) s
  | .dataLast8 => onParser (fun p => { p.storePay b with st := .waitExtraDataCrc8 }) s
  | .dataLast16 => onParser (fun p => { p.storePay b with st := .waitExtraDataCrc16a }) s
  | .pcrc8Ok => complete s.parser.payload s
  | .pcrc8Bad => onParser Parser.returnToSearch s
  | .pcrc16a => onParser (fun p => { p with crcHi := b, st := .waitExtraDataCrc16b }) s
  | .pcrc16bOk => complete s.parser.payload s
  | .pcrc16bBad => onParser Parser.returnToSearch s

/-- The parser step of a byte the reader has taken, reached through the row `t`: that row where R100 selects it, and
elsewhere the one R100 does select (log entry 13). A parser whose counters break R30 (d) has no step (log entry 14). -/
def parserStep (t : Trans) (b : Byte) (s : State) : Host.Outcome State Fault Refusal :=
  if selectTrans s.par s.parser b = some t then .next (applyTrans t b s)
  else match selectTrans s.par s.parser b with
    | some u => .next (applyTrans u b s)
    | none => .fault .noTransition

/-- `step(b)` as a total function (R100, R123): a parser whose counters break R30 (d) has no step. -/
def parseByte (s : State) (b : Byte) : State :=
  match selectTrans s.par s.parser b with
  | some t => applyTrans t b s
  | none => s

/-- Bytes through the parser in order, a parser step each (R8, R100). -/
def parseBytes (bytes : List Byte) (s : State) : State := bytes.foldl parseByte s

/-! What the reader alone takes: the bytes of the input stream (R215 (1)). -/

/-- The reader after it has taken a byte of those its read returned. -/
def afterTake (left : List Byte) : Reader := if left.isEmpty then .between else .feeding left

/-- The reader would take bytes that arrive now before it meets anything else: no byte stands before them, the stream is
open, and `stop` does not end its loop (R40, R233, R234). -/
def readerFree (s : State) : Bool :=
  !s.stop && s.shutdown != .closed && s.rx.isEmpty &&
    match s.reader with
    | .between => true
    | .reading => true
    | .feeding left => left.isEmpty
    | .halted => false

/-- Bytes arrive on the input stream, behind those that wait there (R40). -/
def arrive (bytes : List Byte) (s : State) : State := { s with rx := s.rx ++ bytes }

/-- The reader takes the byte `b`: the next one of its read, or one that arrives where nothing stands before it. `none`
where `b` is not the byte it takes next (R40, R100; log entry 12). -/
def fetchByte (b : Byte) (s : State) : Option State :=
  match s.reader with
  | .feeding (c :: left) => if c = b then some { s with reader := afterTake left } else none
  | _ => if readerFree s then some { s with reader := .between } else none

/-- A transition as an instruction: its byte through the parser where the reader takes it now; elsewhere the byte waits on
the input stream for its turn, for good once the reader has stopped (R100, R215 (1), R235; log entry 12). -/
def takeTransition (t : Trans) (b : Byte) (s : State) : Host.Outcome State Fault Refusal :=
  match fetchByte b s with
  | some s' => parserStep t b s'
  | none => .next (arrive [b] s)

/-- A frame's bytes arrive, and the reader takes them where nothing stands before them (R60, R100, R233). DESIGN CHOICE (log
entry 12): no other agent moves between them. Elsewhere they wait on the input stream for the reader's own steps. -/
def receiveFrame (bytes : List Byte) (s : State) : Host.Outcome State Fault Refusal :=
  if readerFree s then
    if s.parser.live then .next (parseBytes bytes { s with reader := .between }) else .fault .noTransition
  else .next (arrive bytes s)

/-! The read side. -/

/-- The wait's own ending condition holds: the deadline has passed or the signal has fired (R154). -/
def ended (l : Limit) (s : State) : Bool :=
  match l with
  | .forever => false
  | .deadline t => t ≤ s.now
  | .cancel sig => s.fired.contains sig

/-- `try_dequeue()` on the queue: the head, if any, and the queue after it (R153). It does not touch the notifier. -/
def tryDequeue (s : State) : Option Packet × State :=
  match s.q with
  | [] => (none, s)
  | p :: q => (some p, { s with q := q })

/-- A receive from call to end, or to its wait on the notifier, with no other agent's step inside it (R155 to R161; log
entry 8). It takes entries until one is accepted or the queue is empty; then a call without a limit ends with `None`, one
whose limit has already ended it ends so without waiting (R156, R157), and any other waits (its WAKE, EXPIRE and ABORT are
events of the agenda). -/
def receive (role : Role) (limit : Option Limit) (s : State) : State :=
  let s' := { s with q := (firstAccepted role s.q).2, nextCall := s.nextCall + 1 }
  match (firstAccepted role s.q).1, limit with
  | some p, _ => output (.received s.nextCall (.ok p)) s'
  | none, none => output (.received s.nextCall .none) s'
  | none, some l =>
    if ended l s then output (.received s.nextCall l.recvCode) s'
    else { s' with calls := s.calls ++ [⟨s.nextCall, .receive role, some l, .waiting⟩] }

/-- Take one count of the notifier: the state change of WAKE (R154). -/
def takeCount (s : State) : State := { s with notifyCount := s.notifyCount - 1 }

/-- `wait_notifier(until)`, the call as a receive's loop makes it (R154, R156): one of the enabled steps is taken, an open choice where two are (U9, log
entry 10); where none is enabled the caller is blocked. -/
def waitNotifier (l : Limit) (s : State) : State :=
  let n := s.nextCall
  let s' := { s with nextCall := n + 1 }
  let woken := output (.waited n .woken) (takeCount s')
  let done := output (.waited n l.waitCode) s'
  if 0 < s.notifyCount then
    if ended l s then
      let s'' := if Config.takesWake s.choices then woken else done
      { s'' with choices := s.choices + 1 }
    else woken
  else if ended l s then done
  else { s' with calls := s.calls ++ [⟨n, .wait, some l, .waiting⟩] }

/-! The send side. -/

/-- How the output stream answers the write of `bytes`: what reached the wire and the result (R41, R189 line 3, R191,
R235). How many bytes reach the wire before an error is open (U11): any number the environment has set, on a closed stream
too. DESIGN CHOICE (log entry 9): a closed stream for which none is set takes no byte. -/
def wireWrite (bytes : List Byte) (s : State) : List Byte × SendResult :=
  if s.shutdown = .closed then (bytes.take (s.writeFault.getD 0), .writeError)
  else match s.writeFault with
    | none => (bytes, .success)
    | some k => (bytes.take k, .writeError)

/-- `TRYSEND(role, p)` from call to end, or to the point where it is blocked on the token (R189). A construction error
(R202) and a refusal (R190) are results with no other effect. -/
def send (role : Role) (d : Draft) (s : State) : State :=
  let n := s.nextSend
  let s' := { s with nextSend := n + 1 }
  match d.construct with
  | none => output (.sent n .constructionError) s'
  | some p =>
    if role.maySend p then
      let bytes := encodePacket s.par p
      if s.sendToken = .free then
        let w := wireWrite bytes s
        output (.sent n w.2) { s' with tx := s.tx ++ w.1 }
      else { s' with sends := s.sends ++ [⟨n, bytes, .acquire⟩] }
    else output (.sent n .refused) s'

/-! Shutdown. -/

/-- Line 1 of SHUTDOWN, and the start of its line 2 (R234). A shutdown already begun keeps its own end of line 2. -/
def beginShutdown (s : State) : State :=
  { s with
    stop := true
    shutdown := match s.shutdown with
      | .notBegun => .grace (s.now + s.par.gracePeriod)
      | x => x }

/-- An operation on a Packet operand; an operand that is no Packet is a construction error (R139, R143, R202). -/
def withPacket (p : Packet) (f : State → Host.Outcome State Fault Refusal) (s : State) :
    Host.Outcome State Fault Refusal :=
  if p.valid then f s else .next (output .constructionError s)

end Sys2Proof.Machine
end

