-- ==== Sys2Proof/Machine/Calls.lean ====
section
/-!
DEFINITION. The atomic steps of calls and sends in progress (43_queue.md R153 to R161; 44_encoder_send.md R189): one
acquisition of the queue lock, one WAKE, EXPIRE or ABORT, one numbered line of TRYSEND. An agent whose named step is not
enabled takes no step: being blocked is not an error (R154).
-/

namespace Sys2Proof.Machine

/-- The limit of a receive of each shape, fixed at the call (R155 to R157). -/
def Shape.limit (now : Nat) : Shape → Option Limit
  | .attempt => none
  | .timed t => some (t.limit now)
  | .cancellable sig => some (.cancel sig)

/-- A receive is called: its loop is about to look at the queue for the first time. -/
def startReceive (role : Role) (shape : Shape) (s : State) : State :=
  { s with
    calls := s.calls ++ [⟨s.nextCall, .receive role, shape.limit s.now, .ready⟩]
    nextCall := s.nextCall + 1 }

/-- The call numbered `id`. -/
def findCall (id : Nat) (s : State) : Option Call := s.calls.find? (fun c => c.id == id)

/-- The call has returned. -/
def dropCall (id : Nat) (s : State) : State := { s with calls := s.calls.filter (fun c => c.id != id) }

/-- The call goes to another place of its loop. -/
def setCallPhase (id : Nat) (ph : CallPhase) (s : State) : State :=
  { s with calls := s.calls.map (fun c => if c.id = id then { c with phase := ph } else c) }

/-- The call returns a result of R201. -/
def endReceive (id : Nat) (r : RecvResult) (s : State) : State := output (.received id r) (dropCall id s)

/-- The wait returns (R154). -/
def endWait (id : Nat) (r : WaitResult) (s : State) : State := output (.waited id r) (dropCall id s)

/-- One turn of a receive's loop: one acquisition of the queue lock (R8, R153, R155, R156, R159, R161). -/
def receiveStep (id : Nat) (role : Role) (limit : Option Limit) (s : State) : State :=
  match tryDequeue s with
  | (some p, s') => if role.accepts p then endReceive id (.ok p) s' else s'
  | (none, s') =>
    match limit with
    | none => endReceive id .none s'
    | some _ => setCallPhase id .waiting s'

/-- The next step of a call that is not blocked. -/
def callStep (id : Nat) (s : State) : State :=
  match findCall id s with
  | some ⟨_, .receive role, limit, .ready⟩ => receiveStep id role limit s
  | _ => s

/-- `WAKE` (R154): a receive goes round again and re-checks the queue (R156); a wait on its own returns. -/
def wake (id : Nat) (s : State) : State :=
  if 0 < s.notifyCount then
    match findCall id s with
    | some ⟨_, .receive _, _, .waiting⟩ => setCallPhase id .ready (takeCount s)
    | some ⟨_, .wait, _, .waiting⟩ => endWait id .woken (takeCount s)
    | _ => s
  else s

/-- The wait of call `id` ends by its own limit `l`, if that has come. -/
def endByLimit (id : Nat) (kind : CallKind) (l : Limit) (s : State) : State :=
  if ended l s then
    match kind with
    | .receive _ => endReceive id l.recvCode s
    | .wait => endWait id l.waitCode s
  else s

/-- `EXPIRE` (R154): never before the deadline has passed (R218). -/
def expire (id : Nat) (s : State) : State :=
  match findCall id s with
  | some ⟨_, kind, some (.deadline t), .waiting⟩ => endByLimit id kind (.deadline t) s
  | _ => s

/-- `ABORT` (R154, R157). The signal is looked up by its number alone (log entry 25). -/
def abort (id : Nat) (s : State) : State :=
  match findCall id s with
  | some ⟨_, kind, some (.cancel sig), .waiting⟩ => endByLimit id kind (.cancel sig) s
  | _ => s

/-- Lines 0 and 1 of R189 for a send whose further lines are taken one by one: a construction error (R202) and a refusal
(R190) end it here. -/
def startSend (role : Role) (d : Draft) (s : State) : State :=
  let n := s.nextSend
  let s' := { s with nextSend := n + 1 }
  match d.construct with
  | none => output (.sent n .constructionError) s'
  | some p =>
    if role.maySend p then { s' with sends := s.sends ++ [⟨n, encodePacket s.par p, .acquire⟩] }
    else output (.sent n .refused) s'

/-- The send numbered `id`. -/
def findSend (id : Nat) (s : State) : Option Send := s.sends.find? (fun x => x.id == id)

/-- The send goes to another line. -/
def setSendPhase (id : Nat) (ph : SendPhase) (s : State) : State :=
  { s with sends := s.sends.map (fun x => if x.id = id then { x with phase := ph } else x) }

/-- The next numbered line of a send (R189): 2 acquire, enabled when the token is free; 3 write all of the bytes; 4
release, on every exit from line 3 (D20), and return. -/
def sendStep (id : Nat) (s : State) : State :=
  match findSend id s with
  | some ⟨_, _, .acquire⟩ =>
    if s.sendToken = .free then setSendPhase id .write { s with sendToken := .held } else s
  | some ⟨_, bytes, .write⟩ =>
    let w := wireWrite bytes s
    setSendPhase id (.release w.2) { s with tx := s.tx ++ w.1 }
  | some ⟨_, _, .release r⟩ =>
    output (.sent id r) { s with sendToken := .free, sends := s.sends.filter (fun x => x.id != id) }
  | none => s

end Sys2Proof.Machine
end

