-- ==== Sys2Proof/Machine/Enc.lean ====
section
/-!
DEFINITION. The encoder cases (opcode table, format ENC; 44_encoder_send.md R180 to R186): the bytes of the canonical frame,
no state written.
-/

namespace Sys2Proof.Machine

/-- `encode(p)`: exactly one of the four cases applies, chosen by the payload length, whichever row the Packet reaches the
encoder through (R180; log entry 13). -/
def encodeOperand (p : Packet) (s : State) : Host.Outcome State Fault Refusal :=
  withPacket p (fun s => .next (output (.frame (encodePacket s.par p)) s)) s

/-- `ENC.EMB`: one payload byte (R182). -/
def execEncEmb (p : Packet) (s : State) : Host.Outcome State Fault Refusal :=
  encodeOperand p s

/-- `ENC.EMPTY`: no payload byte (R183). -/
def execEncEmpty (p : Packet) (s : State) : Host.Outcome State Fault Refusal :=
  encodeOperand p s

/-- `ENC.CRC8`: 2 to 12 payload bytes (R184). -/
def execEncCrc8 (p : Packet) (s : State) : Host.Outcome State Fault Refusal :=
  encodeOperand p s

/-- `ENC.CRC16`: 13 to 127 payload bytes (R185). -/
def execEncCrc16 (p : Packet) (s : State) : Host.Outcome State Fault Refusal :=
  encodeOperand p s

end Sys2Proof.Machine
end

