-- ==== Sys2Proof/Machine/Frame.lean ====
section
/-!
DEFINITION. The frame forms (opcode table, format FRAME; 30_encoding.md R60 to R68, R74): a whole frame of the form, header
checksum as the encoder computes it, trailing checksum as given, arrives and passes through the parser.
-/

namespace Sys2Proof.Machine

/-- `EMB` (R66, R107). -/
def execFrameEmb (h : Head) (datum : Byte) (s : State) : Host.Outcome State Fault Refusal :=
  receiveFrame (embBytes s.par h datum) s

/-- `EMPTY` (R66, R108). -/
def execFrameEmpty (h : Head) (crcSize : Bool) (s : State) : Host.Outcome State Fault Refusal :=
  receiveFrame (emptyBytes s.par h crcSize) s

/-- `CRC8` (R66, R109, R113, R114, R116, R117). -/
def execFrameCrc8 (h : Head) (pl : Payload) (sum : Byte) (s : State) : Host.Outcome State Fault Refusal :=
  receiveFrame (crc8Bytes s.par h pl sum) s

/-- `CRC16` (R66, R109, R113, R115, R118 to R120). -/
def execFrameCrc16 (h : Head) (pl : Payload) (sum : Word16) (s : State) : Host.Outcome State Fault Refusal :=
  receiveFrame (crc16Bytes s.par h pl sum) s

end Sys2Proof.Machine
end

