-- ==== Sys2Proof/Machine/Func.lean ====
section
/-!
DEFINITION. The functions (opcode table, format FUNC): the checksum unit (40_crc.md R91 to R93), `emit` and
`return_to_search` (41_parser.md R121, R122), `classify` (42_classifier.md R130).
-/

namespace Sys2Proof.Machine

/-- `crc8` (R90, R92). -/
def execFnCrc8 (bytes : List Byte) (s : State) : Host.Outcome State Fault Refusal :=
  .next (output (.byte (crc8 s.par bytes)) s)

/-- `crc16` (R90, R93). -/
def execFnCrc16 (bytes : List Byte) (s : State) : Host.Outcome State Fault Refusal :=
  .next (output (.word (crc16 s.par bytes)) s)

/-- `rev8` (R91). -/
def execFnRev8 (b : Byte) (s : State) : Host.Outcome State Fault Refusal :=
  .next (output (.byte (rev8 b)) s)

/-- `rev16` (R91). -/
def execFnRev16 (v : Word16) (s : State) : Host.Outcome State Fault Refusal :=
  .next (output (.word (rev16 v)) s)

/-- `emit`, the call as a parser step makes it (R121). -/
def execFnEmit (addr flags : Byte) (payload : Payload) (s : State) : Host.Outcome State Fault Refusal :=
  .next (emit addr flags payload s)

/-- `return_to_search`, the call as a parser step makes it (R122). -/
def execFnReturnToSearch (s : State) : Host.Outcome State Fault Refusal :=
  .next (onParser Parser.returnToSearch s)

/-- `classify` (R130, R142). -/
def execFnClassify (r : FrameRecord) (s : State) : Host.Outcome State Fault Refusal :=
  .next (output (.classified (classify r)) s)

end Sys2Proof.Machine
end

