-- ==== Sys2Proof/Machine/Pkt.lean ====
section
/-!
DEFINITION. The packet kinds (opcode table, format PKT; 42_classifier.md R132 to R136, R139, R140): a frame record is
classified. The result is a Packet, or none where the record spells no valid one; no other state is touched (R130).
-/

namespace Sys2Proof.Machine

/-- The classifier applied to a record (R130). Every record is of exactly one kind, the one its flags select, whichever row it
reaches the classifier through (R132, R142; log entry 13). -/
def classifyRecord (r : FrameRecord) (s : State) : Host.Outcome State Fault Refusal :=
  .next (output (.classified (classify r)) s)

/-- `PKT.CUSTOM_REQUEST` (R133, R139). -/
def execPktCustomRequest (r : FrameRecord) (s : State) : Host.Outcome State Fault Refusal :=
  classifyRecord r s

/-- `PKT.CUSTOM_REPLY` (R134, R139). -/
def execPktCustomReply (r : FrameRecord) (s : State) : Host.Outcome State Fault Refusal :=
  classifyRecord r s

/-- `PKT.SYSTEM_REQUEST` (R135, R140, R139). -/
def execPktSystemRequest (r : FrameRecord) (s : State) : Host.Outcome State Fault Refusal :=
  classifyRecord r s

/-- `PKT.SYSTEM_REPORT` (R136, R139). -/
def execPktSystemReport (r : FrameRecord) (s : State) : Host.Outcome State Fault Refusal :=
  classifyRecord r s

end Sys2Proof.Machine
end

