-- ==== Sys2Proof/Machine/Port.lean ====
section
/-!
DEFINITION. The port operations and the queue primitives (opcode table, format PORT; 43_queue.md R150 to R162,
44_encoder_send.md R189 to R191, 70_reset_and_hazards.md R234).
-/

namespace Sys2Proof.Machine

/-- `TRYRECV.MONITOR` (R155). -/
def execTryRecvMonitor (s : State) : Host.Outcome State Fault Refusal :=
  .next (receive .monitor none s)

/-- `RECV.MONITOR` (R156, R162). -/
def execRecvMonitor (timeout : Timeout) (s : State) : Host.Outcome State Fault Refusal :=
  .next (receive .monitor (some (timeout.limit s.now)) s)

/-- `RECVC.MONITOR` (R157). -/
def execRecvcMonitor (sig : Nat) (s : State) : Host.Outcome State Fault Refusal :=
  .next (receive .monitor (some (.cancel sig)) s)

/-- `TRYRECV.HOST` (R161). -/
def execTryRecvHost (s : State) : Host.Outcome State Fault Refusal :=
  .next (receive .host none s)

/-- `RECV.HOST` (R159, R162). -/
def execRecvHost (timeout : Timeout) (s : State) : Host.Outcome State Fault Refusal :=
  .next (receive .host (some (timeout.limit s.now)) s)

/-- `RECVC.HOST` (R159). -/
def execRecvcHost (sig : Nat) (s : State) : Host.Outcome State Fault Refusal :=
  .next (receive .host (some (.cancel sig)) s)

/-- `TRYRECV.DEVICE` (R161). -/
def execTryRecvDevice (s : State) : Host.Outcome State Fault Refusal :=
  .next (receive .device none s)

/-- `RECV.DEVICE` (R160, R162). -/
def execRecvDevice (timeout : Timeout) (s : State) : Host.Outcome State Fault Refusal :=
  .next (receive .device (some (timeout.limit s.now)) s)

/-- `RECVC.DEVICE` (R160). -/
def execRecvcDevice (sig : Nat) (s : State) : Host.Outcome State Fault Refusal :=
  .next (receive .device (some (.cancel sig)) s)

/-- `TRYSEND` (R189 to R191). -/
def execTrySend (role : Role) (draft : Draft) (s : State) : Host.Outcome State Fault Refusal :=
  .next (send role draft s)

/-- `SHUTDOWN` (R234): `stop` is set and the grace period begins; line 3 is the event `closeStream`. -/
def execShutdown (s : State) : Host.Outcome State Fault Refusal :=
  .next (beginShutdown s)

/-- `enqueue`, the call as a parser step makes it (R150). -/
def execEnqueue (p : Packet) (s : State) : Host.Outcome State Fault Refusal :=
  withPacket p (fun s => .next (enqueue p s)) s

/-- `overflow_drop`, the call as `enqueue` makes it (R151). -/
def execOverflowDrop (p : Packet) (s : State) : Host.Outcome State Fault Refusal :=
  withPacket p (fun s => .next (overflowDrop p s)) s

/-- `signal`, the call as `enqueue` makes it (R152). -/
def execSignal (s : State) : Host.Outcome State Fault Refusal :=
  .next (signal s)

/-- `try_dequeue` (R153). -/
def execTryDequeue (s : State) : Host.Outcome State Fault Refusal :=
  .next (output (.dequeued (tryDequeue s).1) (tryDequeue s).2)

/-- `wait_notifier` (R154). -/
def execWaitNotifier (l : Limit) (s : State) : Host.Outcome State Fault Refusal :=
  .next (waitNotifier l s)

end Sys2Proof.Machine
end

