-- ==== Sys2Proof/Machine/Sub.lean ====
section
/-!
DEFINITION. The sub-decodes of system packets (opcode table, format SUB; 42_classifier.md R137, R138): pure functions of the
Packet. The block takes no action on them (R3 (f), R137).
-/

namespace Sys2Proof.Machine

/-- `action(p)` of a system request, whichever of its six rows asks for it (R137). A Packet of another kind has no action, and
its caller is told so (log entry 13). -/
def decodeAction (p : Packet) (s : State) : Host.Outcome State Fault Refusal :=
  withPacket p (fun s =>
    .next (output (if p.kind = .systemRequest then .action (p.action s.par) else .noAttribute) s)) s

/-- An attribute of a system report (R138). A Packet of another kind has none, and its caller is told so (log entry 13). -/
def reportAttribute (f : Packet → Output) (p : Packet) (s : State) : Host.Outcome State Fault Refusal :=
  withPacket p (fun s =>
    .next (output (if p.kind = .systemReport then f p else .noAttribute) s)) s

/-- `PING` (R71, R137). -/
def execSubPing (p : Packet) (s : State) : Host.Outcome State Fault Refusal :=
  decodeAction p s

/-- `REBOOT` (R71, R137). -/
def execSubReboot (p : Packet) (s : State) : Host.Outcome State Fault Refusal :=
  decodeAction p s

/-- `BLINKON` (R71, R137). -/
def execSubBlinkOn (p : Packet) (s : State) : Host.Outcome State Fault Refusal :=
  decodeAction p s

/-- `BLINKOFF` (R71, R137). -/
def execSubBlinkOff (p : Packet) (s : State) : Host.Outcome State Fault Refusal :=
  decodeAction p s

/-- `FWUPGRADE` (R71, R137). -/
def execSubFwUpgrade (p : Packet) (s : State) : Host.Outcome State Fault Refusal :=
  decodeAction p s

/-- `SYSUNKNOWN` (R71, R137). -/
def execSubSysUnknown (p : Packet) (s : State) : Host.Outcome State Fault Refusal :=
  decodeAction p s

/-- `DUPADDR`: whether the report is zero-length and error-flagged (R72, R138). -/
def execSubDupAddr (p : Packet) (s : State) : Host.Outcome State Fault Refusal :=
  reportAttribute (fun p => .duplicateAddress p.duplicateAddress) p s

/-- `ERRCODE`: the first payload byte of the report, uninterpreted, if it has one (R72, R138, U3). -/
def execSubErrCode (p : Packet) (s : State) : Host.Outcome State Fault Refusal :=
  reportAttribute (fun p => .errorCode p.errorCode) p s

end Sys2Proof.Machine
end

