-- ==== Sys2Proof/Machine/Trans.lean ====
section
/-!
DEFINITION. The parser transitions (opcode table, format TRANS; 41_parser.md R101 to R120): the reader takes the byte, and each
row is performed where rule R100 selects it for the parser's state and the byte.
-/

namespace Sys2Proof.Machine

/-- `T.SEARCH_SKIP` (R101). -/
def execTSearchSkip (b : Byte) (s : State) : Host.Outcome State Fault Refusal :=
  takeTransition .searchSkip b s

/-- `T.SEARCH_SYNC` (R102); its byte is `0xBB`. -/
def execTSearchSync (s : State) : Host.Outcome State Fault Refusal :=
  takeTransition .searchSync Config.sync s

/-- `T.ADDR` (R103, R106). -/
def execTAddr (b : Byte) (s : State) : Host.Outcome State Fault Refusal :=
  takeTransition .addr b s

/-- `T.CMD` (R104, R106). -/
def execTCmd (b : Byte) (s : State) : Host.Outcome State Fault Refusal :=
  takeTransition .cmd b s

/-- `T.LEN` (R105, R106). -/
def execTLen (b : Byte) (s : State) : Host.Outcome State Fault Refusal :=
  takeTransition .len b s

/-- `T.HCRC_OK_EMB` (R107). -/
def execTHcrcOkEmb (b : Byte) (s : State) : Host.Outcome State Fault Refusal :=
  takeTransition .hcrcOkEmb b s

/-- `T.HCRC_OK_EMPTY` (R108). -/
def execTHcrcOkEmpty (b : Byte) (s : State) : Host.Outcome State Fault Refusal :=
  takeTransition .hcrcOkEmpty b s

/-- `T.HCRC_OK_DATA` (R109). -/
def execTHcrcOkData (b : Byte) (s : State) : Host.Outcome State Fault Refusal :=
  takeTransition .hcrcOkData b s

/-- `T.HCRC_BAD_NOROLL` (R110). -/
def execTHcrcBadNoroll (b : Byte) (s : State) : Host.Outcome State Fault Refusal :=
  takeTransition .hcrcBadNoroll b s

/-- `T.HCRC_BAD_ROLLBACK` (R111, R112). -/
def execTHcrcBadRollback (b : Byte) (s : State) : Host.Outcome State Fault Refusal :=
  takeTransition .hcrcBadRollback b s

/-- `T.DATA_MORE` (R113). -/
def execTDataMore (b : Byte) (s : State) : Host.Outcome State Fault Refusal :=
  takeTransition .dataMore b s

/-- `T.DATA_LAST8` (R114). -/
def execTDataLast8 (b : Byte) (s : State) : Host.Outcome State Fault Refusal :=
  takeTransition .dataLast8 b s

/-- `T.DATA_LAST16` (R115). -/
def execTDataLast16 (b : Byte) (s : State) : Host.Outcome State Fault Refusal :=
  takeTransition .dataLast16 b s

/-- `T.PCRC8_OK` (R116). -/
def execTPcrc8Ok (b : Byte) (s : State) : Host.Outcome State Fault Refusal :=
  takeTransition .pcrc8Ok b s

/-- `T.PCRC8_BAD` (R117). -/
def execTPcrc8Bad (b : Byte) (s : State) : Host.Outcome State Fault Refusal :=
  takeTransition .pcrc8Bad b s

/-- `T.PCRC16A` (R118). -/
def execTPcrc16a (b : Byte) (s : State) : Host.Outcome State Fault Refusal :=
  takeTransition .pcrc16a b s

/-- `T.PCRC16B_OK` (R119). -/
def execTPcrc16bOk (b : Byte) (s : State) : Host.Outcome State Fault Refusal :=
  takeTransition .pcrc16bOk b s

/-- `T.PCRC16B_BAD` (R120). -/
def execTPcrc16bBad (b : Byte) (s : State) : Host.Outcome State Fault Refusal :=
  takeTransition .pcrc16bBad b s

end Sys2Proof.Machine
end

