-- ==== Sys2Proof/Machine/Dispatch.lean ====
section
/-!
DEFINITION. One arm per constructor of Instr, in the order of spec/opcode_table.json: each calls its instruction's meaning.
-/

namespace Sys2Proof.Machine

def exec (i : Instr) (s : State) : Host.Outcome State Fault Refusal :=
  match i with
  | .frameEmb h d => Sys2Proof.Machine.execFrameEmb h d s
  | .frameEmpty h c => Sys2Proof.Machine.execFrameEmpty h c s
  | .frameCrc8 h pl sum => Sys2Proof.Machine.execFrameCrc8 h pl sum s
  | .frameCrc16 h pl sum => Sys2Proof.Machine.execFrameCrc16 h pl sum s
  | .pktCustomRequest r => Sys2Proof.Machine.execPktCustomRequest r s
  | .pktCustomReply r => Sys2Proof.Machine.execPktCustomReply r s
  | .pktSystemRequest r => Sys2Proof.Machine.execPktSystemRequest r s
  | .pktSystemReport r => Sys2Proof.Machine.execPktSystemReport r s
  | .subPing p => Sys2Proof.Machine.execSubPing p s
  | .subReboot p => Sys2Proof.Machine.execSubReboot p s
  | .subBlinkOn p => Sys2Proof.Machine.execSubBlinkOn p s
  | .subBlinkOff p => Sys2Proof.Machine.execSubBlinkOff p s
  | .subFwUpgrade p => Sys2Proof.Machine.execSubFwUpgrade p s
  | .subSysUnknown p => Sys2Proof.Machine.execSubSysUnknown p s
  | .subDupAddr p => Sys2Proof.Machine.execSubDupAddr p s
  | .subErrCode p => Sys2Proof.Machine.execSubErrCode p s
  | .tSearchSkip b => Sys2Proof.Machine.execTSearchSkip b s
  | .tSearchSync => Sys2Proof.Machine.execTSearchSync s
  | .tAddr b => Sys2Proof.Machine.execTAddr b s
  | .tCmd b => Sys2Proof.Machine.execTCmd b s
  | .tLen b => Sys2Proof.Machine.execTLen b s
  | .tHcrcOkEmb b => Sys2Proof.Machine.execTHcrcOkEmb b s
  | .tHcrcOkEmpty b => Sys2Proof.Machine.execTHcrcOkEmpty b s
  | .tHcrcOkData b => Sys2Proof.Machine.execTHcrcOkData b s
  | .tHcrcBadNoroll b => Sys2Proof.Machine.execTHcrcBadNoroll b s
  | .tHcrcBadRollback b => Sys2Proof.Machine.execTHcrcBadRollback b s
  | .tDataMore b => Sys2Proof.Machine.execTDataMore b s
  | .tDataLast8 b => Sys2Proof.Machine.execTDataLast8 b s
  | .tDataLast16 b => Sys2Proof.Machine.execTDataLast16 b s
  | .tPcrc8Ok b => Sys2Proof.Machine.execTPcrc8Ok b s
  | .tPcrc8Bad b => Sys2Proof.Machine.execTPcrc8Bad b s
  | .tPcrc16a b => Sys2Proof.Machine.execTPcrc16a b s
  | .tPcrc16bOk b => Sys2Proof.Machine.execTPcrc16bOk b s
  | .tPcrc16bBad b => Sys2Proof.Machine.execTPcrc16bBad b s
  | .fnCrc8 bytes => Sys2Proof.Machine.execFnCrc8 bytes s
  | .fnCrc16 bytes => Sys2Proof.Machine.execFnCrc16 bytes s
  | .fnRev8 b => Sys2Proof.Machine.execFnRev8 b s
  | .fnRev16 v => Sys2Proof.Machine.execFnRev16 v s
  | .fnEmit addr flags payload => Sys2Proof.Machine.execFnEmit addr flags payload s
  | .fnReturnToSearch => Sys2Proof.Machine.execFnReturnToSearch s
  | .fnClassify r => Sys2Proof.Machine.execFnClassify r s
  | .encEmb p => Sys2Proof.Machine.execEncEmb p s
  | .encEmpty p => Sys2Proof.Machine.execEncEmpty p s
  | .encCrc8 p => Sys2Proof.Machine.execEncCrc8 p s
  | .encCrc16 p => Sys2Proof.Machine.execEncCrc16 p s
  | .tryRecvMonitor => Sys2Proof.Machine.execTryRecvMonitor s
  | .recvMonitor t => Sys2Proof.Machine.execRecvMonitor t s
  | .recvcMonitor sig => Sys2Proof.Machine.execRecvcMonitor sig s
  | .recvHost t => Sys2Proof.Machine.execRecvHost t s
  | .recvcHost sig => Sys2Proof.Machine.execRecvcHost sig s
  | .recvDevice t => Sys2Proof.Machine.execRecvDevice t s
  | .recvcDevice sig => Sys2Proof.Machine.execRecvcDevice sig s
  | .tryRecvHost => Sys2Proof.Machine.execTryRecvHost s
  | .tryRecvDevice => Sys2Proof.Machine.execTryRecvDevice s
  | .trySend role d => Sys2Proof.Machine.execTrySend role d s
  | .shutdown => Sys2Proof.Machine.execShutdown s
  | .enqueue p => Sys2Proof.Machine.execEnqueue p s
  | .overflowDrop p => Sys2Proof.Machine.execOverflowDrop p s
  | .signal => Sys2Proof.Machine.execSignal s
  | .tryDequeue => Sys2Proof.Machine.execTryDequeue s
  | .waitNotifier l => Sys2Proof.Machine.execWaitNotifier l s

end Sys2Proof.Machine
end

