-- ==== Sys2Proof/Machine/Agents.lean ====
section
/-!
DEFINITION. The reader loop (70_reset_and_hazards.md R233, R234) and what each event of the agenda does (60_exceptions.md
R211, R215; D12). Fetching is the reader's: it takes the next byte the current read returned, and R100 selects the
instruction it is.
-/

namespace Sys2Proof.Machine

/-- `stop` is examined between iterations only (R233, R212 (e)); after it the reader stops for good (R234). -/
def beginIteration (s : State) : State := { s with reader := if s.stop then .halted else .reading }

/-- The read in progress returns up to `n` bytes, at most `SCRATCH_SIZE` (R233). With none it is a read timeout (R207);
from a closed stream it fails, and the error is swallowed (R208, R235). -/
def readReturns (n : Nat) (s : State) : State :=
  if s.shutdown = .closed then { s with reader := .between }
  else
    let m := min n s.par.scratchSize
    { s with reader := afterTake (s.rx.take m), rx := s.rx.drop m }

/-- Fetch and run: the next byte of the read selects a transition by R100, and that instruction is executed; it takes the
byte (`fetchByte`). -/
def feedByte (b : Byte) (s : State) : Host.Outcome State Fault Refusal :=
  match selectTrans s.par s.parser b with
  | some t => exec (transInstr t b) s
  | none => .fault .noTransition

/-- The reader's next step (R233). A read whose answer no event gives returns what the stream holds, up to
`SCRATCH_SIZE`. DESIGN CHOICE (log entry 17): safe, read boundaries are not observable (R17, D3). -/
def readerStep (s : State) : Host.Outcome State Fault Refusal :=
  match s.reader with
  | .between => .next (beginIteration s)
  | .reading => .next (readReturns s.par.scratchSize s)
  | .feeding [] => .next { s with reader := .between }
  | .feeding (b :: _) => feedByte b s
  | .halted => .next s

/-- The answer to the read in progress, if there is one. -/
def answerRead (f : State → State) (s : State) : State :=
  match s.reader with
  | .reading => f s
  | _ => s

/-- Line 3 of SHUTDOWN, enabled once the grace period is over (R234). -/
def closeStream (s : State) : State :=
  match s.shutdown with
  | .grace t => if t ≤ s.now then { s with shutdown := .closed } else s
  | _ => s

/-- A signal fires; once fired it stays fired (R211 (3)). It is known by its number (log entry 25). -/
def fire (sig : Nat) (s : State) : State :=
  if s.fired.contains sig then s else { s with fired := s.fired ++ [sig] }

/-- The calls made only inside another operation, so that no agent has one as a step of its own. The calls inside a parser
step are the reader's, one parser step a byte (R121, R122, R150 to R152, R169, R215 (1); log entry 12). The wait is inside the
loop of a receive, after a look that found the queue empty and before another look, so that no wake-up is lost (R156, R167;
log entry 10); its steps are `wake`, `expire` and `abort` of that receive. -/
def insideAnother : Instr → Bool
  | .fnEmit .. | .fnReturnToSearch | .enqueue .. | .overflowDrop .. | .signal => true
  | .waitNotifier .. => true
  | .frameEmb .. | .frameEmpty .. | .frameCrc8 .. | .frameCrc16 .. => false
  | .pktCustomRequest .. | .pktCustomReply .. | .pktSystemRequest .. | .pktSystemReport .. => false
  | .subPing .. | .subReboot .. | .subBlinkOn .. | .subBlinkOff .. | .subFwUpgrade .. | .subSysUnknown ..
  | .subDupAddr .. | .subErrCode .. => false
  | .tSearchSkip .. | .tSearchSync | .tAddr .. | .tCmd .. | .tLen .. | .tHcrcOkEmb .. | .tHcrcOkEmpty ..
  | .tHcrcOkData .. | .tHcrcBadNoroll .. | .tHcrcBadRollback .. | .tDataMore .. | .tDataLast8 .. | .tDataLast16 ..
  | .tPcrc8Ok .. | .tPcrc8Bad .. | .tPcrc16a .. | .tPcrc16bOk .. | .tPcrc16bBad .. => false
  | .fnCrc8 .. | .fnCrc16 .. | .fnRev8 .. | .fnRev16 .. | .fnClassify .. => false
  | .encEmb .. | .encEmpty .. | .encCrc8 .. | .encCrc16 .. => false
  | .tryRecvMonitor | .recvMonitor .. | .recvcMonitor .. | .tryRecvHost | .recvHost .. | .recvcHost ..
  | .tryRecvDevice | .recvDevice .. | .recvcDevice .. => false
  | .trySend .. | .shutdown | .tryDequeue => false

/-- An operation that the agenda names. One that is made only inside another is nobody's step: the entry has no effect (R167,
R215; log entry 5). -/
def runOperation (i : Instr) (s : State) : Host.Outcome State Fault Refusal :=
  if insideAnother i then .next s else exec i s

/-- What an event of the agenda does. -/
def perform (e : Event) (s : State) : Host.Outcome State Fault Refusal :=
  match e with
  | .op i => runOperation i s
  | .startReceive role shape => .next (startReceive role shape s)
  | .startSend role d => .next (startSend role d s)
  | .callStep id => .next (callStep id s)
  | .wake id => .next (wake id s)
  | .expire id => .next (expire id s)
  | .abort id => .next (abort id s)
  | .sendStep id => .next (sendStep id s)
  | .reader => readerStep s
  | .readData n => .next (answerRead (readReturns n) s)
  | .readTimeout => .next (answerRead (fun s => { s with reader := .between }) s)
  | .readError => .next (answerRead (fun s => { s with reader := .between }) s)
  | .arrive bytes => .next (arrive bytes s)
  | .fire sig => .next (fire sig s)
  | .elapse d => .next { s with now := s.now + d }
  | .setWriteFault f => .next { s with writeFault := f }
  | .closeStream => .next (closeStream s)

/-- The next event of the agenda moves, or the reader where nothing is scheduled (R8, R215; log entry 5). -/
def moveNext (s : State) : Host.Outcome State Fault Refusal :=
  match s.agenda with
  | [] => readerStep s
  | e :: rest => perform e { s with agenda := rest }

/-- Place an instruction where the next step runs it: the sync byte as the next byte of the reader, in the state that
selects its row (R102); any other as the next operation of the agenda. Log entry 6. -/
def placeNext (i : Instr) (s : State) : State :=
  match i with
  | .tSearchSync =>
    { s with
      parser := { s.parser with st := .searchHeader }
      reader := .feeding (Config.sync :: match s.reader with
        | .feeding left => left
        | _ => [])
      agenda := .reader :: s.agenda }
  | i => { s with agenda := .op i :: s.agenda }

end Sys2Proof.Machine
end

