-- ==== Sys2Proof/Machine/Step.lean ====
section
/-!
DEFINITION. One step of the machine: one atomic step of one agent, or one event of the environment (00_scope.md R8).
-/

namespace Sys2Proof.Machine

/-- One step (R8): what the agenda names next, or the reader's next step. -/
def step (s : State) : Host.Outcome State Fault Refusal := moveNext s

/-- The state with the instruction of an opcode-table word stored where the next step takes it (log entries 6, 15). -/
def State.withFetchWord (s : State) (nbits w : Nat) : State :=
  match decodeTableWord nbits w with
  | some i => placeNext i s
  | none => s

end Sys2Proof.Machine
end

