-- ==== Sys2Proof/Safety.lean ====
section
/-!
DEFINITION. What a sound state is, in the terms the claims use: the invariants of 10_state.md R30, the send token as a
mutual exclusion (R51, R188), the bookkeeping of calls and sends, and what no step ever undoes (R23, R24, R28).
-/

namespace Sys2Proof.Machine

/-- The earliest sync byte among collected header bytes 1, 2, 3 (R13, R106). -/
def earliestSync : List (Cand × Byte) → Option Cand
  | [] => none
  | (k, b) :: more => if b = Config.sync then some k else earliestSync more

/-- The header bytes after byte 0 that are meaningful in each state (R12). -/
def Parser.seen (p : Parser) : List (Cand × Byte) :=
  match p.st with
  | .searchHeader => []
  | .waitAddress => []
  | .waitCommand => [(.k1, p.hdr[1])]
  | .waitDataLength => [(.k1, p.hdr[1]), (.k2, p.hdr[2])]
  | _ => [(.k1, p.hdr[1]), (.k2, p.hdr[2]), (.k3, p.hdr[3])]

/-- R30 (a) to (e). Clauses (b) and (c) are one equation: `rb` is the earliest sync byte among the header bytes collected
so far (R13). That the stored header passed its check (d) is not recorded in any state element, so it is not here. -/
structure Parser.Inv (p : Parser) : Prop where
  sync      : p.st ≠ .searchHeader → p.hdr[0] = Config.sync
  candidate : p.rb = earliestSync p.seen
  counting  : p.st = .waitExtraData → 1 ≤ p.remaining.toNat ∧ p.remaining.toNat ≤ p.paylen.toNat ∧
    p.paylen = lengthOf p.hdr[3] ∧ embeddedOf p.hdr[2] = false
  counted   : p.st = .waitExtraDataCrc8 ∨ p.st = .waitExtraDataCrc16a ∨ p.st = .waitExtraDataCrc16b →
    p.remaining = 0 ∧ 1 ≤ p.paylen.toNat
  short     : p.st = .waitExtraDataCrc8 → crc16selOf p.hdr[3] = false
  long      : p.st = .waitExtraDataCrc16a ∨ p.st = .waitExtraDataCrc16b → crc16selOf p.hdr[3] = true

/-- R30 (f) and (g). -/
structure State.QueueInv (s : State) : Prop where
  depth  : s.q.length ≤ s.par.queueDepth
  count  : s.notifyCount ≤ s.par.notifyCap
  packet : ∀ p ∈ s.q, p.valid = true

/-- The send is between its lines 2 and 4: it holds the token (R189). -/
def Send.holds (x : Send) : Bool := x.phase != .acquire

/-- Sends in progress have numbers of their own, and the token is held exactly while one of them, and only one, is between
acquire and release (R51, R188, R189). -/
structure State.SendInv (s : State) : Prop where
  fresh  : ∀ x ∈ s.sends, x.id < s.nextSend
  nodup  : (s.sends.map Send.id).Nodup
  holder : (s.sends.filter Send.holds).length = if s.sendToken = .held then 1 else 0

/-- Calls in progress have numbers of their own, and a blocked one has a wait it can be woken from or end (R26, R154). -/
structure State.CallInv (s : State) : Prop where
  fresh   : ∀ c ∈ s.calls, c.id < s.nextCall
  nodup   : (s.calls.map Call.id).Nodup
  blocked : ∀ c ∈ s.calls, c.phase = .waiting → c.limit.isSome = true
  waits   : ∀ c ∈ s.calls, c.kind = .wait → c.phase = .waiting

/-- How many calls are about to look at the queue: newly called, woken, or past a packet they discarded (R156, R159). -/
def State.looking (s : State) : Nat := (s.calls.filter (fun c => c.phase == .ready)).length

/-- How many consumers are blocked (R154). -/
def State.blocked (s : State) : Nat := (s.calls.filter (fun c => c.phase == .waiting)).length

/-- No wake-up is lost (R167): every wait is one of a receive, which looks at the queue before it and after it, and each
packet that a call in progress could take has a count, or a call that is about to look at the queue. -/
structure State.WakeInv (s : State) : Prop where
  loops  : ∀ c ∈ s.calls, c.kind ≠ .wait
  counts : min s.q.length s.calls.length ≤ s.notifyCount + s.looking

/-- What no step undoes: the parameters (R28), `overflow` and `stop` once set (R23, R24), what has been written to the
wire and returned to callers, the signals fired (R211 (3)), the time base. -/
structure State.Onward (s t : State) : Prop where
  par      : t.par = s.par
  overflow : s.overflow = true → t.overflow = true
  stop     : s.stop = true → t.stop = true
  wire     : s.tx <+: t.tx
  results  : s.out <+: t.out
  fired    : ∀ sig ∈ s.fired, sig ∈ t.fired
  time     : s.now ≤ t.now

/-- The write domain has stopped for good (R234). -/
abbrev State.readerHalted (s : State) : Prop := s.reader = .halted

end Sys2Proof.Machine
end

