-- ==== Sys2Proof/Certificates/Slice0/Obligations.lean ====
section
/-!
DEFINITION. The statements for the provers, from the numbered rules of spec/. A receive, a send and a transition are
named through `receiveInstr`, `Instr.trySend` and the eighteen constructors; expected states are written out from the
rules' pseudocode, so that each equation says both what changes and that nothing else does.
-/

open Sys2Proof Sys2Proof.Machine

namespace Sys2Proof.Stated

/-- The state after `return_to_search()` (R122): `st <- SearchHeader`, `rb <- none`, the buffers as they are. -/
def searching (s : State) : State := { s with parser := { s.parser with st := .searchHeader, rb := none } }

/-- The four stored header bytes (R95 (a)). -/
def header (p : Parser) : List Byte := [p.hdr[0], p.hdr[1], p.hdr[2], p.hdr[3]]

/-- The stored payload `pay[0 .. paylen-1]` (R95 (b)). -/
def stored (p : Parser) : Payload := Payload.take p.paylen p.pay.toList

/-- The state after a value is handed to the caller and nothing else happens. -/
def returned (o : Output) (s : State) : State := { s with out := s.out ++ [o] }

/-- The reader would take bytes that arrive now before it meets anything else: no byte stands before them, the stream is
open, and `stop` does not end its loop (R40, R233, R234). -/
def ready (s : State) : Prop :=
  s.stop = false ∧ s.shutdown ≠ .closed ∧ s.rx = [] ∧
    (s.reader = .between ∨ s.reader = .reading ∨ s.reader = .feeding [])

/-- The calls inside a parser step (R121, R122, R150 to R152). -/
def parserCall (i : Instr) : Prop :=
  (∃ a f pl, i = .fnEmit a f pl) ∨ i = .fnReturnToSearch ∨ i = .signal ∨ ∃ p, i = .enqueue p ∨ i = .overflowDrop p

/-- The frame instructions, each with the bytes of its frame (R60 to R66). -/
def frameBytes (par : Params) : Instr → List Byte → Prop
  | .frameEmb h d, bytes => bytes = embBytes par h d
  | .frameEmpty h c, bytes => bytes = emptyBytes par h c
  | .frameCrc8 h pl x, bytes => bytes = crc8Bytes par h pl x
  | .frameCrc16 h pl x, bytes => bytes = crc16Bytes par h pl x
  | _, _ => False

/-- The state in which the reader has taken the next byte of its read and `left` is still to be fed: past the last byte it is
between iterations (R233). -/
def took (left : List Byte) (s : State) : State :=
  { s with reader := if left = [] then .between else .feeding left }

/-- The operations made only inside another: the calls inside a parser step, and the wait inside a receive's loop (R156,
R215 (1)). -/
def innerCall (i : Instr) : Prop := parserCall i ∨ ∃ l, i = .waitNotifier l

/-- The next step is one in which the reader takes a byte: it moves with a byte of its read to feed, or a byte or a frame
arrives that it takes at once (R215 (1), R233). -/
def takesByte (s : State) : Prop :=
  ((s.agenda = [] ∨ ∃ rest, s.agenda = .reader :: rest) ∧ ∃ b left, s.reader = .feeding (b :: left)) ∨
  (∃ tr b rest, s.agenda = .op (transInstr tr b) :: rest ∧ (tr = .searchSync → b = 0xBB) ∧
    ((∃ left, s.reader = .feeding (b :: left)) ∨ ready s)) ∨
  (∃ i bytes rest, s.agenda = .op i :: rest ∧ frameBytes s.par i bytes ∧ ready s)

/-- The rows of R100: when each transition applies. -/
def rowApplies (par : Params) (p : Parser) (b : Byte) : Trans → Prop
  | .searchSkip => p.st = .searchHeader ∧ b ≠ 0xBB
  | .searchSync => p.st = .searchHeader ∧ b = 0xBB
  | .addr => p.st = .waitAddress
  | .cmd => p.st = .waitCommand
  | .len => p.st = .waitDataLength
  | .hcrcOkEmb => p.st = .waitHeaderCrc8 ∧ b = crc8 par (header p) ∧ p.hdr[2].getLsbD 5 = true
  | .hcrcOkEmpty => p.st = .waitHeaderCrc8 ∧ b = crc8 par (header p) ∧ p.hdr[2].getLsbD 5 = false ∧
      p.hdr[3].extractLsb' 0 7 = 0
  | .hcrcOkData => p.st = .waitHeaderCrc8 ∧ b = crc8 par (header p) ∧ p.hdr[2].getLsbD 5 = false ∧
      p.hdr[3].extractLsb' 0 7 ≠ 0
  | .hcrcBadNoroll => p.st = .waitHeaderCrc8 ∧ b ≠ crc8 par (header p) ∧ p.rb = none
  | .hcrcBadRollback => p.st = .waitHeaderCrc8 ∧ b ≠ crc8 par (header p) ∧ p.rb ≠ none
  | .dataMore => p.st = .waitExtraData ∧ 1 < p.remaining.toNat
  | .dataLast8 => p.st = .waitExtraData ∧ p.remaining.toNat = 1 ∧ p.hdr[3].getLsbD 7 = false
  | .dataLast16 => p.st = .waitExtraData ∧ p.remaining.toNat = 1 ∧ p.hdr[3].getLsbD 7 = true
  | .pcrc8Ok => p.st = .waitExtraDataCrc8 ∧ b = crc8 par (stored p).val
  | .pcrc8Bad => p.st = .waitExtraDataCrc8 ∧ b ≠ crc8 par (stored p).val
  | .pcrc16a => p.st = .waitExtraDataCrc16a
  | .pcrc16bOk => p.st = .waitExtraDataCrc16b ∧ p.crcHi.toNat * 256 + b.toNat = (crc16 par (stored p).val).toNat
  | .pcrc16bBad => p.st = .waitExtraDataCrc16b ∧ p.crcHi.toNat * 256 + b.toNat ≠ (crc16 par (stored p).val).toNat

/-- The receive operation of a role and a shape (R155 to R161). -/
def receiveInstr : Role → Shape → Instr
  | .monitor, .attempt => .tryRecvMonitor
  | .monitor, .timed t => .recvMonitor t
  | .monitor, .cancellable sig => .recvcMonitor sig
  | .host, .attempt => .tryRecvHost
  | .host, .timed t => .recvHost t
  | .host, .cancellable sig => .recvcHost sig
  | .device, .attempt => .tryRecvDevice
  | .device, .timed t => .recvDevice t
  | .device, .cancellable sig => .recvcDevice sig

/-- What a port of each role lets through (R158). -/
def letsThrough : Role → Packet → Prop
  | .monitor, _ => True
  | .host, p => p.origin = .device
  | .device, p => p.origin = .host

/-- What a port of each role may send (R190). -/
def mayBeSent : Role → Packet → Prop
  | .monitor, _ => True
  | .host, p => p.origin = .host
  | .device, p => p.origin = .device

/-- Steps of one call in progress, one after the other. -/
def callSteps (id : Nat) : Nat → State → State
  | 0, s => s
  | n + 1, s => callSteps id n (callStep id s)

/-- Steps of one send in progress, one after the other. -/
def sendSteps (id : Nat) : Nat → State → State
  | 0, s => s
  | n + 1, s => sendSteps id n (sendStep id s)

/-- The instructions that only compute a value: kinds, sub-decodes, checksums, `classify`, encoder cases. -/
def onlyReturns : Instr → Bool
  | .pktCustomRequest _ => true
  | .pktCustomReply _ => true
  | .pktSystemRequest _ => true
  | .pktSystemReport _ => true
  | .subPing _ => true
  | .subReboot _ => true
  | .subBlinkOn _ => true
  | .subBlinkOff _ => true
  | .subFwUpgrade _ => true
  | .subSysUnknown _ => true
  | .subDupAddr _ => true
  | .subErrCode _ => true
  | .fnCrc8 _ => true
  | .fnCrc16 _ => true
  | .fnRev8 _ => true
  | .fnRev16 _ => true
  | .fnClassify _ => true
  | .encEmb _ => true
  | .encEmpty _ => true
  | .encCrc8 _ => true
  | .encCrc16 _ => true
  | _ => false

end Sys2Proof.Stated

open Sys2Proof.Stated

/-! ### Fetch, decode, select -/

/-- A scheduled operation is executed, on the state without its agenda entry (R8; log entry 5). The calls inside a parser step
are no operation of an agent's own: the reader alone makes them, one parser step a byte (R215 (1); log entry 12). Nor is
`wait_notifier`, which a receive makes between two looks at the queue (R156, R167; log entry 10). Scheduled by themselves they
have no effect. -/
def Obligations.StepRunsScheduledOperation : Prop :=
  ∀ (s : State) (i : Instr) (rest : List Event), s.agenda = .op i :: rest →
    (¬ innerCall i → step s = exec i { s with agenda := rest }) ∧
    (innerCall i → step s = .next { s with agenda := rest })

/-- The reader's next byte is executed as the transition that R100 selects, which moves the reader past it; it moves when the
agenda names it and when the agenda is empty (R100, R233; log entry 5). -/
def Obligations.StepRunsSelectedTransition : Prop :=
  ∀ (s : State) (b : Byte) (left : List Byte) (t : Trans),
    s.reader = .feeding (b :: left) → selectTrans s.par s.parser b = some t →
      (s.agenda = [] → step s = exec (transInstr t b) s) ∧
      (∀ rest, s.agenda = .reader :: rest → step s = exec (transInstr t b) { s with agenda := rest }) ∧
      ∃ u, exec (transInstr t b) s = .next u ∧ u.reader = (took left s).reader ∧ u.rx = s.rx

/-- Words written out from the table's patterns: `or1cccccdddddddd`, `or0cccccs0000000`, `or0ccccc0lllllll`,
`or0ccccc1lllllll`, `1reccccc`, `0reccccc`, `1re00000`, `0re00000` and the sync byte, which shares its word with a row of a
kind (log entry 15). -/
def Obligations.TableWordsDecode : Prop :=
  decodeTableWord 16 0xE342 = some (.frameEmb ⟨0, .host, true, 3⟩ 0x42) ∧
  decodeTableWord 16 0x5180 = some (.frameEmpty ⟨0, .device, true, 17⟩ true) ∧
  decodeTableWord 16 0x5102 = some (.frameCrc8 ⟨0, .device, true, 17⟩ (Payload.take 2 [0, 0]) 0) ∧
  decodeTableWord 16 0x8181 = some (.frameCrc16 ⟨0, .host, false, 1⟩ (Payload.take 1 [0]) 0) ∧
  decodeTableWord 8 0xC3 = some (.pktCustomRequest ⟨0, 0xC3, Payload.empty⟩) ∧
  decodeTableWord 8 0x1F = some (.pktCustomReply ⟨0, 0x1F, Payload.empty⟩) ∧
  decodeTableWord 8 0xC0 = some (.pktSystemRequest ⟨0, 0xC0, Payload.empty⟩) ∧
  decodeTableWord 8 0x40 = some (.pktSystemReport ⟨0, 0x40, Payload.empty⟩) ∧
  decodeTableWord 8 0xBB = some .tSearchSync

/-- For every well-formed frame instruction, every operand and every parameter, decoding its bytes gives it back, with
whatever follows left over (R60 to R67). -/
def Obligations.FrameDecodeEncodeAgree : Prop :=
  ∀ (par : Params) (rest : List Byte) (h : Head) (datum : Byte) (s : Bool) (pl : Payload) (sum8 : Byte) (sum16 : Word16),
    decodeFrame par (embBytes par h datum ++ rest) = .ok (.frameEmb h datum, rest) ∧
    decodeFrame par (emptyBytes par h s ++ rest) = .ok (.frameEmpty h s, rest) ∧
    (pl.val ≠ [] →
      decodeFrame par (crc8Bytes par h pl sum8 ++ rest) = .ok (.frameCrc8 h pl sum8, rest) ∧
      decodeFrame par (crc16Bytes par h pl sum16 ++ rest) = .ok (.frameCrc16 h pl sum16, rest))

/-- Nothing but a sync byte starts a frame, and a header whose fifth byte is not the CRC-8 of the first four is none
(R76). -/
def Obligations.NoFrameWithoutSyncAndHeaderCrc : Prop :=
  ∀ (par : Params) (b0 b1 b2 b3 b4 : Byte) (rest : List Byte),
    (b0 ≠ 0xBB → decodeFrame par (b0 :: rest) = .error .noSync) ∧
    (b0 = 0xBB → b4 ≠ crc8 par [b0, b1, b2, b3] →
      decodeFrame par (b0 :: b1 :: b2 :: b3 :: b4 :: rest) = .error .headerCrc)

/-- In every parser state that meets R30, exactly one row of R100 applies to each byte, and it is the one selected. R123 is an
inference the spec marks as its own. -/
def Obligations.TransitionTableIsTotal : Prop :=
  ∀ (par : Params) (p : Parser) (b : Byte), p.Inv →
    ∃ t, selectTrans par p b = some t ∧ rowApplies par p b t ∧ ∀ u, rowApplies par p b u → u = t

/-- A row run where another is selected does what the selected one does. A byte the reader takes is the transition R100
selects, whichever of the eighteen rows names it (R100, R123); a record is classified by its own flags (R132, R142); a system
request answers its own action, a report its own attributes (R137, R138); a Packet is encoded by its length (R180). A Packet
of a kind that has no such attribute answers so and nothing else happens. Log entry 13: that rows are told apart by their
operands and state and never stop is the model's reading. -/
def Obligations.UnselectedRowRunsSelected : Prop :=
  ∀ (s : State) (t u : Trans) (b : Byte) (left : List Byte) (r : FrameRecord) (p : Packet),
    (s.reader = .feeding (b :: left) → (u = .searchSync → b = 0xBB) → selectTrans s.par s.parser b = some t →
      exec (transInstr u b) s = exec (transInstr t b) s) ∧
    (∀ i ∈ [Instr.pktCustomRequest r, .pktCustomReply r, .pktSystemRequest r, .pktSystemReport r],
      exec i s = .next (returned (.classified (classify r)) s)) ∧
    (p.valid = true →
      (∀ i ∈ [Instr.subPing p, .subReboot p, .subBlinkOn p, .subBlinkOff p, .subFwUpgrade p, .subSysUnknown p],
        (p.origin = .host ∧ p.command = 0 → exec i s = .next (returned (.action (p.action s.par)) s)) ∧
        (p.origin = .device ∨ p.command ≠ 0 → exec i s = .next (returned .noAttribute s))) ∧
      (p.origin = .device ∧ p.command = 0 →
        (p.payload.val ≠ [] ∨ p.roleFlag = false →
          exec (.subDupAddr p) s = .next (returned (.duplicateAddress false) s)) ∧
        (p.payload.val = [] → exec (.subErrCode p) s = .next (returned (.errorCode none) s))) ∧
      (p.origin = .host ∨ p.command ≠ 0 →
        exec (.subDupAddr p) s = .next (returned .noAttribute s) ∧
        exec (.subErrCode p) s = .next (returned .noAttribute s)) ∧
      (∀ i ∈ [Instr.encEmb p, .encEmpty p, .encCrc8 p, .encCrc16 p],
        exec i s = .next (returned (.frame (encodePacket s.par p)) s)))

/-! ### The parser -/

/-- R101, R102: in `SearchHeader` a byte that is not `0xBB` changes nothing; `0xBB` starts a header. The reader takes the
byte, here and in the statements below: it is the next of its read. -/
def Obligations.SearchTransitions : Prop :=
  ∀ (s : State) (b : Byte) (left : List Byte), s.reader = .feeding (b :: left) → s.parser.st = .searchHeader →
    (b ≠ 0xBB → exec (.tSearchSkip b) s = .next (took left s)) ∧
    (b = 0xBB → exec .tSearchSync s = .next { took left s with parser := { s.parser with
      hdr := s.parser.hdr.set 0 0xBB, rb := none, st := .waitAddress } })

/-- R103, R104, R105 with R106: the byte is stored, the first sync byte is recorded, the state advances. -/
def Obligations.HeaderBytesAreCollected : Prop :=
  ∀ (s : State) (b : Byte) (left : List Byte), s.reader = .feeding (b :: left) →
    (s.parser.st = .waitAddress → exec (.tAddr b) s = .next { took left s with parser := { s.parser with
      hdr := s.parser.hdr.set 1 b
      rb := if b = 0xBB ∧ s.parser.rb = none then some .k1 else s.parser.rb
      st := .waitCommand } }) ∧
    (s.parser.st = .waitCommand → exec (.tCmd b) s = .next { took left s with parser := { s.parser with
      hdr := s.parser.hdr.set 2 b
      rb := if b = 0xBB ∧ s.parser.rb = none then some .k2 else s.parser.rb
      st := .waitDataLength } }) ∧
    (s.parser.st = .waitDataLength → exec (.tLen b) s = .next { took left s with parser := { s.parser with
      hdr := s.parser.hdr.set 3 b
      rb := if b = 0xBB ∧ s.parser.rb = none then some .k3 else s.parser.rb
      st := .waitHeaderCrc8 } })

/-- R108: a matching header of length 0, whatever its CRC-size flag, emits an empty payload. That the flag is ignored is
the spec's decision D5. -/
def Obligations.HeaderMatchEmitsEmpty : Prop :=
  ∀ (s : State) (b : Byte) (left : List Byte), s.reader = .feeding (b :: left) →
    s.parser.st = .waitHeaderCrc8 → b = crc8 s.par (header s.parser) →
    s.parser.hdr[2].getLsbD 5 = false → s.parser.hdr[3].extractLsb' 0 7 = 0 →
      exec (.tHcrcOkEmpty b) s =
        .next (searching (emit s.parser.hdr[1] s.parser.hdr[2] Payload.empty (took left s)))

/-- R107, R109: a matching header with embedded data emits the frame and returns to search; one with a length enters the
payload state with the countdown at the declared length. -/
def Obligations.HeaderMatchWithData : Prop :=
  ∀ (s : State) (b : Byte) (left : List Byte), s.reader = .feeding (b :: left) →
    s.parser.st = .waitHeaderCrc8 → b = crc8 s.par (header s.parser) →
    (s.parser.hdr[2].getLsbD 5 = true → exec (.tHcrcOkEmb b) s =
      .next (searching (emit s.parser.hdr[1] s.parser.hdr[2] (Payload.one s.parser.hdr[3]) (took left s)))) ∧
    (s.parser.hdr[2].getLsbD 5 = false → s.parser.hdr[3].extractLsb' 0 7 ≠ 0 →
      exec (.tHcrcOkData b) s = .next { took left s with parser := { s.parser with
        paylen := s.parser.hdr[3].extractLsb' 0 7
        remaining := s.parser.hdr[3].extractLsb' 0 7
        st := .waitExtraData } })

/-- R110: a header mismatch without a candidate returns to search; the failing byte is consumed, which is the spec's
decision D4. -/
def Obligations.HeaderMismatchWithoutCandidate : Prop :=
  ∀ (s : State) (b : Byte) (left : List Byte), s.reader = .feeding (b :: left) →
    s.parser.st = .waitHeaderCrc8 → b ≠ crc8 s.par (header s.parser) →
    s.parser.rb = none → exec (.tHcrcBadNoroll b) s = .next (searching (took left s))

/-- R111, R112: the closed form of the rollback. What the entries marked `-` hold is left open here. The closed form is
an inference the spec marks as its own. -/
def Obligations.RollbackClosedForm : Prop :=
  ∀ (s : State) (b : Byte) (left : List Byte), s.reader = .feeding (b :: left) →
    s.parser.Inv → s.parser.st = .waitHeaderCrc8 → b ≠ crc8 s.par (header s.parser) →
    (s.parser.rb = some .k1 → exec (.tHcrcBadRollback b) s = .next { took left s with parser := { s.parser with
      st := .waitHeaderCrc8
      hdr := #v[0xBB, s.parser.hdr[2], s.parser.hdr[3], b]
      rb := if s.parser.hdr[2] = 0xBB then some .k1 else if s.parser.hdr[3] = 0xBB then some .k2
            else if b = 0xBB then some .k3 else none } }) ∧
    (s.parser.rb = some .k2 → ∃ x, exec (.tHcrcBadRollback b) s = .next { took left s with parser := { s.parser with
      st := .waitDataLength
      hdr := #v[0xBB, s.parser.hdr[3], b, x]
      rb := if s.parser.hdr[3] = 0xBB then some .k1 else if b = 0xBB then some .k2 else none } }) ∧
    (s.parser.rb = some .k3 → ∃ x y, exec (.tHcrcBadRollback b) s = .next { took left s with parser := { s.parser with
      st := .waitCommand
      hdr := #v[0xBB, b, x, y]
      rb := if b = 0xBB then some .k1 else none } })

/-- R113, R114, R115: a payload byte is stored at `paylen - remaining`, which is an index of `pay`, and counted; the last
one goes to the checksum state the CRC-size flag selects. -/
def Obligations.PayloadBytesAreStored : Prop :=
  ∀ (s : State) (b : Byte) (left : List Byte), s.reader = .feeding (b :: left) →
    s.parser.Inv → s.parser.st = .waitExtraData →
    s.parser.paylen.toNat - s.parser.remaining.toNat < 127 ∧
    (1 < s.parser.remaining.toNat → exec (.tDataMore b) s = .next { took left s with parser := { s.parser with
      pay := s.parser.pay.setIfInBounds (s.parser.paylen.toNat - s.parser.remaining.toNat) b
      remaining := BitVec.ofNat 7 (s.parser.remaining.toNat - 1) } }) ∧
    (s.parser.remaining.toNat = 1 → s.parser.hdr[3].getLsbD 7 = false →
      exec (.tDataLast8 b) s = .next { took left s with parser := { s.parser with
        pay := s.parser.pay.setIfInBounds (s.parser.paylen.toNat - 1) b
        remaining := 0
        st := .waitExtraDataCrc8 } }) ∧
    (s.parser.remaining.toNat = 1 → s.parser.hdr[3].getLsbD 7 = true →
      exec (.tDataLast16 b) s = .next { took left s with parser := { s.parser with
        pay := s.parser.pay.setIfInBounds (s.parser.paylen.toNat - 1) b
        remaining := 0
        st := .waitExtraDataCrc16a } })

/-- R116, R118, R119: a matching trailing checksum emits the stored payload and returns to search; the first CRC-16 byte is
held and not compared, and the CRC-16 is `crc_hi * 256 + b`. -/
def Obligations.PayloadMatchEmits : Prop :=
  ∀ (s : State) (b : Byte) (left : List Byte), s.reader = .feeding (b :: left) →
    (s.parser.st = .waitExtraDataCrc8 → b = crc8 s.par (stored s.parser).val →
      exec (.tPcrc8Ok b) s = .next (searching (emit s.parser.hdr[1] s.parser.hdr[2] (stored s.parser) (took left s)))) ∧
    (s.parser.st = .waitExtraDataCrc16a →
      exec (.tPcrc16a b) s = .next { took left s with parser := { s.parser with
        crcHi := b, st := .waitExtraDataCrc16b } }) ∧
    (s.parser.st = .waitExtraDataCrc16b →
      s.parser.crcHi.toNat * 256 + b.toNat = (crc16 s.par (stored s.parser).val).toNat →
      exec (.tPcrc16bOk b) s = .next (searching (emit s.parser.hdr[1] s.parser.hdr[2] (stored s.parser) (took left s))))

/-- R117, R120: a mismatch drops the frame and returns to search; nothing else changes. -/
def Obligations.PayloadMismatchDropsFrame : Prop :=
  ∀ (s : State) (b : Byte) (left : List Byte), s.reader = .feeding (b :: left) →
    (s.parser.st = .waitExtraDataCrc8 → b ≠ crc8 s.par (stored s.parser).val →
      exec (.tPcrc8Bad b) s = .next (searching (took left s))) ∧
    (s.parser.st = .waitExtraDataCrc16b →
      s.parser.crcHi.toNat * 256 + b.toNat ≠ (crc16 s.par (stored s.parser).val).toNat →
      exec (.tPcrc16bBad b) s = .next (searching (took left s)))

/-- R122: `return_to_search()` in every state of the parser. -/
def Obligations.ReturnToSearchKeepsBuffers : Prop :=
  ∀ s : State, exec .fnReturnToSearch s = .next (searching s)

/-- R124, an inference the spec marks as its own: a byte through the parser queues at most one packet, at the tail, and a
valid one. -/
def Obligations.ByteQueuesAtMostOnePacket : Prop :=
  ∀ (s : State) (b : Byte), (parseByte s b).q = s.q ∨ ∃ p : Packet, p.valid = true ∧ (parseByte s b).q = s.q ++ [p]

/-! ### Frames -/

/-- R66, R107, R108 through a whole frame: from search, a frame of form `EMB` or `EMPTY` emits its record, and nothing
but the parser and the reader's place differs from the state after that emission. One exec takes the whole frame (log
entry 12). -/
def Obligations.ShortFrameIsReceived : Prop :=
  ∀ (s : State) (h : Head) (datum : Byte) (c : Bool), ready s → s.parser.st = .searchHeader →
    (∃ p, p.st = .searchHeader ∧ p.rb = none ∧ exec (.frameEmb h datum) s =
      .next { emit h.addr (flagsByte h.origin h.role true h.command) (Payload.one datum) s with
        parser := p, reader := .between }) ∧
    (∃ p, p.st = .searchHeader ∧ p.rb = none ∧ exec (.frameEmpty h c) s =
      .next { emit h.addr (flagsByte h.origin h.role false h.command) Payload.empty s with
        parser := p, reader := .between })

/-- R66, R109 to R120 through a whole frame: from search, a frame of form `CRC8` or `CRC16` emits its record exactly when
its trailing checksum is that of the payload; otherwise nothing but the parser and the reader's place changes. One exec takes
the whole frame (log entry 12). -/
def Obligations.LongFrameIsReceived : Prop :=
  ∀ (s : State) (h : Head) (pl : Payload) (sum8 : Byte) (sum16 : Word16),
    ready s → s.parser.st = .searchHeader → pl.val ≠ [] →
    (∃ p, p.st = .searchHeader ∧ p.rb = none ∧ exec (.frameCrc8 h pl sum8) s =
      .next { (if sum8 = crc8 s.par pl.val
        then emit h.addr (flagsByte h.origin h.role false h.command) pl s else s) with
        parser := p, reader := .between }) ∧
    (∃ p, p.st = .searchHeader ∧ p.rb = none ∧ exec (.frameCrc16 h pl sum16) s =
      .next { (if sum16 = crc16 s.par pl.val
        then emit h.addr (flagsByte h.origin h.role false h.command) pl s else s) with
        parser := p, reader := .between })

/-- R74: the non-canonical frames give the same queue, notifier and overflow as their canonical twins: a one-byte payload
in any of the three forms, a longer one in either, an empty one with either flag. That the parser accepts them is the
spec's decision D5. -/
def Obligations.NonCanonicalFormsAreEquivalent : Prop :=
  ∀ (s t u : State) (h : Head) (pl : Payload), s.parser.st = .searchHeader →
    (∀ c : Bool, pl.val = [] → exec (.frameEmpty h false) s = .next t → exec (.frameEmpty h c) s = .next u →
      t.q = u.q ∧ t.notifyCount = u.notifyCount ∧ t.overflow = u.overflow) ∧
    (∀ b : Byte, pl.val = [b] → exec (.frameEmb h b) s = .next t →
      (exec (.frameCrc8 h pl (crc8 s.par pl.val)) s = .next u ∨
        exec (.frameCrc16 h pl (crc16 s.par pl.val)) s = .next u) →
      t.q = u.q ∧ t.notifyCount = u.notifyCount ∧ t.overflow = u.overflow) ∧
    (pl.val ≠ [] → exec (.frameCrc8 h pl (crc8 s.par pl.val)) s = .next t →
      exec (.frameCrc16 h pl (crc16 s.par pl.val)) s = .next u →
      t.q = u.q ∧ t.notifyCount = u.notifyCount ∧ t.overflow = u.overflow)

/-- R187: the bytes of a Packet's frame, fed to a parser in search, queue that Packet on the last byte and not before, and
leave the parser in search; every other part of the state is as `enqueue` leaves it. For every table. R187 is an inference
the spec marks as its own. -/
def Obligations.EncodedPacketRoundTrips : Prop :=
  ∀ (s : State) (x : Packet), x.valid = true → s.parser.st = .searchHeader →
    (∃ p, p.st = .searchHeader ∧ p.rb = none ∧
      parseBytes (encodePacket s.par x) s = { enqueue x s with parser := p }) ∧
    (∀ k, k < (encodePacket s.par x).length →
      ∃ p, parseBytes ((encodePacket s.par x).take k) s = { s with parser := p })

/-- The reader, left alone with the bytes of a read, takes one step a byte, and the machine's steps give what
`parseBytes` says. An instruction of a frame form is the arrival of its bytes and the reader's steps until they are used up,
with nothing between them, however small the reads are (R8, R17, R100, R233; log entries 5 and 12). -/
def Obligations.ReaderStepsAreParserSteps : Prop :=
  ∀ (s : State) (bytes : List Byte), s.parser.Inv →
    (bytes ≠ [] →
      Host.Core.run Sys2Proof.core bytes.length { s with reader := .feeding bytes, agenda := [] } =
        .next { parseBytes bytes s with reader := .between, agenda := [] }) ∧
    (∀ i, frameBytes s.par i bytes → ready s → s.reader = .between → s.agenda = [] →
      ∃ k, Host.Core.run Sys2Proof.core k { s with rx := bytes } = exec i s)

/-! ### Emission, queue, notifier -/

/-- R121, R130, R150: `emit` classifies, and a Packet is appended and signalled if there is room. A record that spells no
valid Packet changes nothing (decision D6); a full queue sets `overflow` (decision D8). -/
def Obligations.EmitClassifiesAndEnqueues : Prop :=
  ∀ (s : State) (addr flags : Byte) (pl : Payload),
    (classify ⟨addr, flags, pl⟩ = none → exec (.fnEmit addr flags pl) s = .next s) ∧
    (∀ p, classify ⟨addr, flags, pl⟩ = some p →
      (s.q.length < s.par.queueDepth → exec (.fnEmit addr flags pl) s = .next { s with
        q := s.q ++ [p]
        notifyCount := if s.notifyCount < s.par.notifyCap then s.notifyCount + 1 else s.notifyCount }) ∧
      (s.par.queueDepth ≤ s.q.length → exec (.fnEmit addr flags pl) s = .next { s with overflow := true }))

/-- R150, R151, R152: the write side of the queue. After a successful `enqueue` a count is pending (R167 (a)). Saturation
and the drop are the spec's decisions D9 and D8; `overflow_drop` and `signal` on their own act whatever the queue holds
(log entry 20). -/
def Obligations.EnqueueAppendsThenSignals : Prop :=
  ∀ (s : State) (p : Packet), p.valid = true →
    (s.q.length < s.par.queueDepth → exec (.enqueue p) s = .next { s with
      q := s.q ++ [p]
      notifyCount := if s.notifyCount < s.par.notifyCap then s.notifyCount + 1 else s.notifyCount }) ∧
    (s.par.queueDepth ≤ s.q.length → exec (.enqueue p) s = .next { s with overflow := true }) ∧
    (∀ t, s.q.length < s.par.queueDepth → exec (.enqueue p) s = .next t → 1 ≤ t.notifyCount) ∧
    exec (.overflowDrop p) s = .next { s with overflow := true } ∧
    (s.notifyCount < s.par.notifyCap → exec .signal s = .next { s with notifyCount := s.notifyCount + 1 }) ∧
    (s.par.notifyCap ≤ s.notifyCount → exec .signal s = .next s)

/-- R153: `try_dequeue()` removes and returns the head, and does not touch the notifier (decision D9). -/
def Obligations.TryDequeueTakesHead : Prop :=
  ∀ s : State,
    (s.q = [] → exec .tryDequeue s = .next (returned (.dequeued none) s)) ∧
    (∀ p rest, s.q = p :: rest → exec .tryDequeue s = .next (returned (.dequeued (some p)) { s with q := rest }))

/-! ### The classifier -/

/-- R130 to R132, R139, R140: the result of `classify` for every record, from the bits of the flags byte. The silent drop
is decision D6, the bit positions decision D1. -/
def Obligations.ClassifyByFields : Prop :=
  ∀ (s : State) (r : FrameRecord),
    exec (.fnClassify r) s = .next (returned (.classified
      (if (r.flags.getLsbD 7 = false ∧ r.addr = 0) ∨
          (r.flags.getLsbD 7 = true ∧ r.flags.extractLsb' 0 5 ≠ 0 ∧ r.flags.getLsbD 6 = true ∧ r.addr = 0)
       then none
       else some ⟨if r.flags.getLsbD 7 = true then .host else .device, r.addr, r.flags.getLsbD 6,
         r.flags.extractLsb' 0 5, r.payload⟩)) s)

/-- R133 to R136, R140: each kind, from the pattern of its row, and the records of it that are dropped. -/
def Obligations.KindsClassify : Prop :=
  ∀ (s : State) (r : FrameRecord),
    (r.flags.getLsbD 7 = true → r.flags.extractLsb' 0 5 ≠ 0 →
      exec (.pktCustomRequest r) s = .next (returned (.classified
        (if r.flags.getLsbD 6 = true ∧ r.addr = 0 then none
         else some ⟨.host, r.addr, r.flags.getLsbD 6, r.flags.extractLsb' 0 5, r.payload⟩)) s)) ∧
    (r.flags.getLsbD 7 = false → r.flags.extractLsb' 0 5 ≠ 0 →
      exec (.pktCustomReply r) s = .next (returned (.classified
        (if r.addr = 0 then none
         else some ⟨.device, r.addr, r.flags.getLsbD 6, r.flags.extractLsb' 0 5, r.payload⟩)) s)) ∧
    (r.flags.getLsbD 7 = true → r.flags.extractLsb' 0 5 = 0 →
      exec (.pktSystemRequest r) s = .next (returned (.classified
        (some ⟨.host, r.addr, r.flags.getLsbD 6, 0, r.payload⟩)) s)) ∧
    (r.flags.getLsbD 7 = false → r.flags.extractLsb' 0 5 = 0 →
      exec (.pktSystemReport r) s = .next (returned (.classified
        (if r.addr = 0 then none else some ⟨.device, r.addr, r.flags.getLsbD 6, 0, r.payload⟩)) s))

/-- R137: the action of a system request, for pairwise distinct action bytes. That an empty payload decodes to `Unknown`
is decision D7. -/
def Obligations.SystemRequestActions : Prop :=
  ∀ (s : State) (p : Packet), p.valid = true → p.origin = .host → p.command = 0 → s.par.distinct →
    (∀ b more, p.payload.val = b :: more →
      (b = s.par.sysPing → exec (.subPing p) s = .next (returned (.action .ping) s)) ∧
      (b = s.par.sysReboot → exec (.subReboot p) s = .next (returned (.action .reboot) s)) ∧
      (b = s.par.sysBlinkOn → exec (.subBlinkOn p) s = .next (returned (.action .blinkOn) s)) ∧
      (b = s.par.sysBlinkOff → exec (.subBlinkOff p) s = .next (returned (.action .blinkOff) s)) ∧
      (b = s.par.sysFwUpgrade → exec (.subFwUpgrade p) s = .next (returned (.action .firmwareUpgrade) s)) ∧
      (b ∉ [s.par.sysPing, s.par.sysReboot, s.par.sysBlinkOn, s.par.sysBlinkOff, s.par.sysFwUpgrade] →
        exec (.subSysUnknown p) s = .next (returned (.action .unknown) s))) ∧
    (p.payload.val = [] → exec (.subSysUnknown p) s = .next (returned (.action .unknown) s))

/-- R138: the attributes of a system report: whether it means "duplicate address detected", and its error code, if any. -/
def Obligations.SystemReportAttributes : Prop :=
  ∀ (s : State) (p : Packet), p.valid = true → p.origin = .device → p.command = 0 →
    exec (.subDupAddr p) s =
      .next (returned (.duplicateAddress (decide (p.payload.val = [] ∧ p.roleFlag = true))) s) ∧
    (∀ b more, p.payload.val = b :: more → exec (.subErrCode p) s = .next (returned (.errorCode (some b)) s)) ∧
    (p.payload.val = [] → exec (.subErrCode p) s = .next (returned (.errorCode none) s))

/-- R139, R202 for an operand that is no Packet: the caller gets a construction error and nothing else happens, whichever
operation on a Packet it is (log entry 18). -/
def Obligations.InvalidPacketIsRejected : Prop :=
  ∀ (s : State) (p : Packet), p.valid = false →
    ∀ i ∈ [Instr.enqueue p, .overflowDrop p, .encEmb p, .encEmpty p, .encCrc8 p, .encCrc16 p, .subPing p, .subReboot p,
        .subBlinkOn p, .subBlinkOff p, .subFwUpgrade p, .subSysUnknown p, .subDupAddr p, .subErrCode p],
      exec i s = .next (returned .constructionError s)

/-! ### Checksums and the encoder -/

/-- R91: each result bit, and that both reversals are their own inverse. That `rev16` runs over all 16 bits is decision
D2. -/
def Obligations.BitReversal : Prop :=
  ∀ (s : State) (b : Byte) (v : Word16),
    (∃ x : Byte, exec (.fnRev8 b) s = .next (returned (.byte x) s) ∧
      (∀ i, i < 8 → x.getLsbD i = b.getLsbD (7 - i)) ∧ rev8 x = b) ∧
    (∃ x : Word16, exec (.fnRev16 v) s = .next (returned (.word x) s) ∧
      (∀ i, i < 16 → x.getLsbD i = v.getLsbD (15 - i)) ∧ rev16 x = v)

/-- R92, R93: the results of `crc8` and `crc16`: of no bytes, and of one more byte than any sequence, in terms of the
tables. The fold formulas are decision D2. With the tables of the sample instantiation S, which are the spec's own and never
the hardware's, the two check values of R97. -/
def Obligations.ChecksumRecurrence : Prop :=
  ∀ (s : State) (bytes : List Byte) (b : Byte),
    (∀ u : State, u.par = s.par.withSampleTables →
      exec (.fnCrc8 [0x31, 0x32, 0x33, 0x34, 0x35, 0x36, 0x37, 0x38, 0x39]) u = .next (returned (.byte 0x20) u) ∧
      exec (.fnCrc16 [0x31, 0x32, 0x33, 0x34, 0x35, 0x36, 0x37, 0x38, 0x39]) u = .next (returned (.word 0x31C3) u)) ∧
    exec (.fnCrc8 []) s = .next (returned (.byte 0) s) ∧
    exec (.fnCrc16 []) s = .next (returned (.word 0) s) ∧
    (∃ c : Byte, exec (.fnCrc8 bytes) s = .next (returned (.byte (rev8 c)) s) ∧
      exec (.fnCrc8 (bytes ++ [b])) s =
        .next (returned (.byte (rev8 (s.par.t8[(c ^^^ rev8 b).toNat]'(BitVec.isLt _)))) s)) ∧
    (∃ c : Word16, exec (.fnCrc16 bytes) s = .next (returned (.word (rev16 c)) s) ∧
      exec (.fnCrc16 (bytes ++ [b])) s =
        .next (returned (.word (rev16 ((c >>> 8) ^^^
          s.par.t16[((c ^^^ (rev8 b).setWidth 16).setWidth 8 : Byte).toNat]'(BitVec.isLt _)))) s))

/-- R181 to R185: the bytes each encoder case gives. -/
def Obligations.EncoderCases : Prop :=
  ∀ (s : State) (p : Packet), p.valid = true →
    (∀ b, p.payload.val = [b] → exec (.encEmb p) s = .next (returned (.frame
      (let h : List Byte := [0xBB, p.address, flagsByte p.origin p.roleFlag true p.command, b]
       h ++ [crc8 s.par h])) s)) ∧
    (p.payload.val = [] → exec (.encEmpty p) s = .next (returned (.frame
      (let h : List Byte := [0xBB, p.address, flagsByte p.origin p.roleFlag false p.command, 0x00]
       h ++ [crc8 s.par h])) s)) ∧
    (2 ≤ p.payload.val.length → p.payload.val.length ≤ 12 → exec (.encCrc8 p) s = .next (returned (.frame
      (let h : List Byte :=
        [0xBB, p.address, flagsByte p.origin p.roleFlag false p.command, BitVec.ofNat 8 p.payload.val.length]
       h ++ [crc8 s.par h] ++ p.payload.val ++ [crc8 s.par p.payload.val])) s)) ∧
    (13 ≤ p.payload.val.length → exec (.encCrc16 p) s = .next (returned (.frame
      (let h : List Byte :=
        [0xBB, p.address, flagsByte p.origin p.roleFlag false p.command, BitVec.ofNat 8 (128 + p.payload.val.length)]
       let c := crc16 s.par p.payload.val
       h ++ [crc8 s.par h] ++ p.payload.val ++ [BitVec.ofNat 8 (c.toNat / 256), BitVec.ofNat 8 c.toNat])) s))

/-- R62, R181, R186: the flags byte the encoder writes, field by field, and how long a canonical frame is. The bit numbers
are decision D1, the lengths an inference the spec marks as its own. -/
def Obligations.FlagsByteAndFrameLength : Prop :=
  ∀ (par : Params) (p : Packet) (o : Origin) (role embedded : Bool) (c : BitVec 5),
    (flagsByte o role embedded c).toNat =
      (if o = .host then 128 else 0) + (if role then 64 else 0) + (if embedded then 32 else 0) + c.toNat ∧
    (encodePacket par p).length =
      if p.payload.val.length ≤ 1 then 5
      else if p.payload.val.length ≤ 12 then p.payload.val.length + 6
      else p.payload.val.length + 7

/-! ### The read side -/

/-- R155, R158 to R161: with a packet the port accepts in the queue, every shape of receive on it returns the first such
packet and discards those before it; nothing else changes. The non-blocking filtered shapes are decision D10; one exec is
the whole call (log entry 8). -/
def Obligations.ReceiveTakesFirstAccepted : Prop :=
  ∀ (s : State) (role : Role) (shape : Shape) (skipped rest : List Packet) (p : Packet),
    s.q = skipped ++ p :: rest → (∀ x ∈ skipped, ¬ letsThrough role x) → letsThrough role p →
      exec (receiveInstr role shape) s = .next { s with
        q := rest
        nextCall := s.nextCall + 1
        out := s.out ++ [.received s.nextCall (.ok p)] }

/-- R155 to R157, R161, R201: with no packet the port accepts, the queue is emptied; an attempt ends with `None`, a timed
receive whose deadline has passed with `Timeout`, a cancellable one whose signal has fired with `Cancelled`, and any other
waits with its deadline fixed. Decisions D9, D10 and D16; a call whose own ending has come does not wait (log entry 8). -/
def Obligations.ReceiveFindsNothing : Prop :=
  ∀ (s : State) (role : Role), (∀ x ∈ s.q, ¬ letsThrough role x) →
    exec (receiveInstr role .attempt) s = .next { s with
      q := [], nextCall := s.nextCall + 1, out := s.out ++ [.received s.nextCall .none] } ∧
    exec (receiveInstr role (.timed (.after 0))) s = .next { s with
      q := [], nextCall := s.nextCall + 1, out := s.out ++ [.received s.nextCall .timeout] } ∧
    (∀ d, exec (receiveInstr role (.timed (.after (d + 1)))) s = .next { s with
      q := [], nextCall := s.nextCall + 1
      calls := s.calls ++ [⟨s.nextCall, .receive role, some (.deadline (s.now + (d + 1))), .waiting⟩] }) ∧
    exec (receiveInstr role (.timed .infinite)) s = .next { s with
      q := [], nextCall := s.nextCall + 1
      calls := s.calls ++ [⟨s.nextCall, .receive role, some .forever, .waiting⟩] } ∧
    (∀ sig, (sig ∈ s.fired → exec (receiveInstr role (.cancellable sig)) s = .next { s with
        q := [], nextCall := s.nextCall + 1, out := s.out ++ [.received s.nextCall .cancelled] }) ∧
      (sig ∉ s.fired → exec (receiveInstr role (.cancellable sig)) s = .next { s with
        q := [], nextCall := s.nextCall + 1
        calls := s.calls ++ [⟨s.nextCall, .receive role, some (.cancel sig), .waiting⟩] }))

/-- R159, R160: a packet that a receive of a role hands over is one its port accepts, so a Host receive never surfaces a
host-originated packet: not where one exec is the whole call (the model's reading, log entry 8), and not in any step of the
machine, whichever call in progress hands the packet over. The premise on calls is the model's bookkeeping (log entry 24),
which every step keeps (`StepKeepsCallInvariant`). -/
def Obligations.HostNeverSurfacesHostPackets : Prop :=
  (∀ (s t : State) (shape : Shape), exec (receiveInstr .host shape) s = .next t →
    t.out = s.out ∨ ∃ r, t.out = s.out ++ [.received s.nextCall r] ∧ ∀ p, r = .ok p → p.origin = .device) ∧
  (∀ (s t : State) (role : Role) (id : Nat) (p : Packet), s.CallInv → step s = .next t →
    .received id (.ok p) ∈ t.out.drop s.out.length →
    ((∃ c ∈ s.calls, c.id = id ∧ c.kind = .receive role) ∨
      (∃ shape rest, s.agenda = .op (receiveInstr role shape) :: rest)) →
    letsThrough role p)

/-- The steps of a receive, one acquisition of the lock each, with no other step between them, give what the operation
gives: with a packet the port accepts; and with none, where the steps leave the call blocked and its own ending, if it has
come, is the EXPIRE or ABORT that follows (R8, R154 to R161; log entry 8). -/
def Obligations.ReceiveStepsGiveWholeReceive : Prop :=
  ∀ (s : State) (role : Role) (shape : Shape), (∀ c ∈ s.calls, c.id ≠ s.nextCall) →
    (∀ (skipped rest : List Packet) (p : Packet),
      s.q = skipped ++ p :: rest → (∀ x ∈ skipped, ¬ letsThrough role x) → letsThrough role p →
        exec (receiveInstr role shape) s =
          .next (callSteps s.nextCall (skipped.length + 1) (startReceive role shape s))) ∧
    ((∀ x ∈ s.q, ¬ letsThrough role x) →
      let looked := callSteps s.nextCall (s.q.length + 1) (startReceive role shape s)
      (shape = .attempt ∨ shape = .timed .infinite → exec (receiveInstr role shape) s = .next looked) ∧
      (shape = .timed (.after 0) → exec (receiveInstr role shape) s = .next (expire s.nextCall looked)) ∧
      (∀ d, shape = .timed (.after (d + 1)) → exec (receiveInstr role shape) s = .next looked) ∧
      (∀ sig, shape = .cancellable sig →
        (sig ∈ s.fired → exec (receiveInstr role shape) s = .next (abort s.nextCall looked)) ∧
        (sig ∉ s.fired → exec (receiveInstr role shape) s = .next looked)))

/-- R154: `wait_notifier` on its own takes WAKE where only a count is there, its own ending where only that has come,
blocks where neither is, and takes one of the two where both are (decision D16; which one is free, log entry 10). -/
def Obligations.WaitNotifierTakesAnEnabledStep : Prop :=
  ∀ (s : State) (l : Limit), ∃ n : Nat,
    let woken : State := { s with
      notifyCount := s.notifyCount - 1, nextCall := s.nextCall + 1, choices := n
      out := s.out ++ [.waited s.nextCall .woken] }
    let limited (r : WaitResult) : State := { s with
      nextCall := s.nextCall + 1, choices := n, out := s.out ++ [.waited s.nextCall r] }
    (0 < s.notifyCount → ended l s = false → exec (.waitNotifier l) s = .next woken) ∧
    (∀ t, l = .deadline t → t ≤ s.now → s.notifyCount = 0 → exec (.waitNotifier l) s = .next (limited .timedOut)) ∧
    (∀ sig, l = .cancel sig → sig ∈ s.fired → s.notifyCount = 0 →
      exec (.waitNotifier l) s = .next (limited .aborted)) ∧
    (s.notifyCount = 0 → ended l s = false → exec (.waitNotifier l) s = .next { s with
      nextCall := s.nextCall + 1, choices := n
      calls := s.calls ++ [⟨s.nextCall, .wait, some l, .waiting⟩] }) ∧
    (∀ t, l = .deadline t → t ≤ s.now → 0 < s.notifyCount →
      exec (.waitNotifier l) s = .next woken ∨ exec (.waitNotifier l) s = .next (limited .timedOut)) ∧
    (∀ sig, l = .cancel sig → sig ∈ s.fired → 0 < s.notifyCount →
      exec (.waitNotifier l) s = .next woken ∨ exec (.waitNotifier l) s = .next (limited .aborted))

/-- R154, R156: a blocked call takes WAKE only where a count is pending, and takes the count: a receive goes round again, a
wait on its own returns. -/
def Obligations.WakeTakesOneCount : Prop :=
  ∀ (s : State) (id : Nat) (l : Limit) (rest : List Event), s.agenda = .wake id :: rest →
    (∀ role, findCall id s = some ⟨id, .receive role, some l, .waiting⟩ →
      (s.notifyCount = 0 → step s = .next { s with agenda := rest }) ∧
      (0 < s.notifyCount → step s = .next { s with
        agenda := rest
        notifyCount := s.notifyCount - 1
        calls := s.calls.map (fun c => if c.id = id then { c with phase := .ready } else c) })) ∧
    (findCall id s = some ⟨id, .wait, some l, .waiting⟩ →
      (s.notifyCount = 0 → step s = .next { s with agenda := rest }) ∧
      (0 < s.notifyCount → step s = .next { s with
        agenda := rest
        notifyCount := s.notifyCount - 1
        calls := s.calls.filter (fun c => c.id != id)
        out := s.out ++ [.waited id .woken] }))

/-- R154, R205, R206, R218: a blocked receive ends with `Timeout` once its deadline has passed and never before, and with
`Cancelled` once its signal has fired and never before; a wait on its own ends with `TimedOut` and `Aborted` there; what it
leaves behind is unchanged. -/
def Obligations.WaitEndsOnlyByItsLimit : Prop :=
  ∀ (s : State) (id : Nat) (kind : CallKind) (rest : List Event),
    (∀ t, s.agenda = .expire id :: rest → findCall id s = some ⟨id, kind, some (.deadline t), .waiting⟩ →
      (s.now < t → step s = .next { s with agenda := rest }) ∧
      (t ≤ s.now → step s = .next { s with
        agenda := rest
        calls := s.calls.filter (fun c => c.id != id)
        out := s.out ++ [match kind with
          | .receive _ => .received id .timeout
          | .wait => .waited id .timedOut] })) ∧
    (∀ sig, s.agenda = .abort id :: rest → findCall id s = some ⟨id, kind, some (.cancel sig), .waiting⟩ →
      (sig ∉ s.fired → step s = .next { s with agenda := rest }) ∧
      (sig ∈ s.fired → step s = .next { s with
        agenda := rest
        calls := s.calls.filter (fun c => c.id != id)
        out := s.out ++ [match kind with
          | .receive _ => .received id .cancelled
          | .wait => .waited id .aborted] }))

/-- The frame of the read side: nine receives, `try_dequeue` and `wait_notifier` leave the parser, the send side, the
streams, the status bits and the parameters alone (R10, R192). -/
def Obligations.ReadSideLeavesTheRest : Prop :=
  ∀ (s t : State) (role : Role) (shape : Shape) (l : Limit),
    (exec (receiveInstr role shape) s = .next t ∨ exec .tryDequeue s = .next t ∨
      exec (.waitNotifier l) s = .next t) →
      t = { s with q := t.q, notifyCount := t.notifyCount, calls := t.calls, nextCall := t.nextCall
                   choices := t.choices, out := t.out } ∧
      t.q <:+ s.q ∧ t.notifyCount ≤ s.notifyCount

/-! ### The send side -/

/-- R189: with the token free, the stream open and answering, a permitted send writes the whole frame of the Packet and
leaves the token free; nothing else changes. -/
def Obligations.TrySendWritesWholeFrame : Prop :=
  ∀ (s : State) (role : Role) (d : Draft) (p : Packet),
    d.construct = some p → mayBeSent role p → s.sendToken = .free → s.shutdown ≠ .closed → s.writeFault = none →
      exec (.trySend role d) s = .next { s with
        tx := s.tx ++ encodePacket s.par p
        nextSend := s.nextSend + 1
        out := s.out ++ [.sent s.nextSend .success] }

/-- R143, R189, R190, R191, R202, R235: no Packet can be constructed, or the role may not send it: nothing is written and
nothing else changes. A sender that finds the token held waits with its frame serialised. A failing write leaves
the prefix the environment has set on the wire, on a closed stream too, and the caller gets the write error with the token
free (decisions D15, D20); a closed stream for which no prefix is set takes nothing, which is the model's choice (log entry
9). -/
def Obligations.TrySendTurnsAwayWaitsOrFails : Prop :=
  ∀ (s : State) (role : Role) (d : Draft),
    (d.construct = none → exec (.trySend role d) s = .next { s with
      nextSend := s.nextSend + 1, out := s.out ++ [.sent s.nextSend .constructionError] }) ∧
    (∀ p, d.construct = some p → ¬ mayBeSent role p → exec (.trySend role d) s = .next { s with
      nextSend := s.nextSend + 1, out := s.out ++ [.sent s.nextSend .refused] }) ∧
    (∀ p, d.construct = some p → mayBeSent role p →
      (s.sendToken = .held → exec (.trySend role d) s = .next { s with
        nextSend := s.nextSend + 1, sends := s.sends ++ [⟨s.nextSend, encodePacket s.par p, .acquire⟩] }) ∧
      (∀ k, s.sendToken = .free → s.writeFault = some k →
        exec (.trySend role d) s = .next { s with
          tx := s.tx ++ (encodePacket s.par p).take k
          nextSend := s.nextSend + 1
          out := s.out ++ [.sent s.nextSend .writeError] }) ∧
      (s.sendToken = .free → s.shutdown = .closed → s.writeFault = none → exec (.trySend role d) s = .next { s with
        nextSend := s.nextSend + 1, out := s.out ++ [.sent s.nextSend .writeError] }))

/-- R143: which arguments the four constructors accept, and the Packet they give: the arguments in their own places, the
origin and the command 0 of the system kinds the constructor's. -/
def Obligations.ConstructorsAcceptExactlyTheirRanges : Prop :=
  ∀ (a c : Nat) (l : List Byte) (f : Bool) (p : Packet),
    ((Draft.customRequest a c l f).construct = some p ↔
      (a ≤ 255 ∧ 1 ≤ c ∧ c ≤ 31 ∧ l.length ≤ 127 ∧ ¬ (f = true ∧ a = 0)) ∧
      p.origin = .host ∧ p.address.toNat = a ∧ p.command.toNat = c ∧ p.payload.val = l ∧ p.roleFlag = f) ∧
    ((Draft.customReply a c l f).construct = some p ↔
      (1 ≤ a ∧ a ≤ 255 ∧ 1 ≤ c ∧ c ≤ 31 ∧ l.length ≤ 127) ∧
      p.origin = .device ∧ p.address.toNat = a ∧ p.command.toNat = c ∧ p.payload.val = l ∧ p.roleFlag = f) ∧
    ((Draft.systemRequest a l f).construct = some p ↔
      (a ≤ 255 ∧ l.length ≤ 127) ∧
      p.origin = .host ∧ p.address.toNat = a ∧ p.command.toNat = 0 ∧ p.payload.val = l ∧ p.roleFlag = f) ∧
    ((Draft.systemReport a l f).construct = some p ↔
      (1 ≤ a ∧ a ≤ 255 ∧ l.length ≤ 127) ∧
      p.origin = .device ∧ p.address.toNat = a ∧ p.command.toNat = 0 ∧ p.payload.val = l ∧ p.roleFlag = f)

/-- The numbered lines of a send, taken one by one with no other step between them, give what the operation gives (R189;
log entry 9). -/
def Obligations.SendLinesGiveWholeSend : Prop :=
  ∀ (s : State) (role : Role) (d : Draft), (∀ x ∈ s.sends, x.id ≠ s.nextSend) → s.sendToken = .free →
    exec (.trySend role d) s = .next (sendSteps s.nextSend 3 (startSend role d s))

/-- R192: sending, whole or line by line, never changes the parser, the queue, the notifier or `overflow`. -/
def Obligations.SendingLeavesReceiveSide : Prop :=
  ∀ (s t : State) (role : Role) (d : Draft) (id : Nat),
    (exec (.trySend role d) s = .next t ∨ t = sendStep id s ∨ t = startSend role d s) →
      t = { s with sendToken := t.sendToken, sends := t.sends, nextSend := t.nextSend, tx := t.tx, out := t.out }

/-! ### Frames of the other instructions -/

/-- Kinds, sub-decodes, checksums, `classify` and encoder cases write no state: they return one value (R90, R130, R137,
R180). -/
def Obligations.PureOperationsOnlyReturn : Prop :=
  ∀ (s t : State) (i : Instr), onlyReturns i = true → exec i s = .next t → ∃ o, t = returned o s

/-- Transitions, whole frames, `emit`, `return_to_search`, `enqueue`, `signal` and `overflow_drop` change nothing outside
the write domain, the shared state and the reader's input (R10). They are the reader's alone, and it stops (R169, R215 (1),
R234, R235; log entry 12): a byte or a frame that the reader does not take now waits on the input stream, behind what waits
there, and touches neither parser nor queue; a byte that it can take at once is taken as the next byte of a read is; and no
step but one in which the reader takes a byte touches the parser or `overflow`, raises the notifier or adds to the queue. -/
def Obligations.WriteDomainLeavesTheRest : Prop :=
  ∀ s : State,
    (∀ (t : State) (i : Instr),
      ((∃ tr b, i = transInstr tr b) ∨ (∃ bytes, frameBytes s.par i bytes) ∨ (∃ a f pl, i = .fnEmit a f pl) ∨
        i = .fnReturnToSearch ∨ i = .signal ∨ (∃ p : Packet, p.valid = true ∧ (i = .enqueue p ∨ i = .overflowDrop p))) →
      exec i s = .next t →
        t = { s with parser := t.parser, q := t.q, notifyCount := t.notifyCount, overflow := t.overflow
                     reader := t.reader, rx := t.rx } ∧ s.rx <+: t.rx) ∧
    (¬ ready s →
      (∀ i bytes, frameBytes s.par i bytes → exec i s = .next { s with rx := s.rx ++ bytes }) ∧
      (∀ tr b, (tr = .searchSync → b = 0xBB) → (∀ left, s.reader ≠ .feeding (b :: left)) →
        exec (transInstr tr b) s = .next { s with rx := s.rx ++ [b] })) ∧
    (ready s → ∀ tr b, (tr = .searchSync → b = 0xBB) →
      exec (transInstr tr b) s = exec (transInstr tr b) { s with reader := .feeding [b] }) ∧
    (∀ t, step s = .next t → ¬ takesByte s →
      t.parser = s.parser ∧ t.overflow = s.overflow ∧ t.notifyCount ≤ s.notifyCount ∧ t.q <:+ s.q)

/-! ### Shutdown and the reader -/

/-- R234: line 1 of `SHUTDOWN` sets `stop` and starts the grace period, and nothing else changes, consumers included (R247);
a second call changes only `stop` (log entry 16). Line 3 closes the stream once the grace period is over and not before, and
nothing else changes; without a grace period running it does nothing. -/
def Obligations.ShutdownSetsStop : Prop :=
  ∀ s : State,
    (s.shutdown = .notBegun → exec .shutdown s =
      .next { s with stop := true, shutdown := .grace (s.now + s.par.gracePeriod) }) ∧
    (s.shutdown ≠ .notBegun → exec .shutdown s = .next { s with stop := true }) ∧
    (∀ rest, s.agenda = .closeStream :: rest →
      (∀ t, s.shutdown = .grace t →
        (s.now < t → step s = .next { s with agenda := rest }) ∧
        (t ≤ s.now → step s = .next { s with agenda := rest, shutdown := .closed })) ∧
      (s.shutdown = .notBegun ∨ s.shutdown = .closed → step s = .next { s with agenda := rest }))

/-- R207, R208, R233, R234: between iterations a set `stop` ends the reader and a clear one starts a read; a read timeout
and a read error take no parser step and change nothing but the reader's own place; a halted reader takes no step; and
`stop` is not looked at while bytes of a read are left. A read hands over the first bytes that wait on the input stream, in
order, as many as the environment answers and at most `SCRATCH_SIZE`, and takes exactly those from the stream, whatever
`stop` says (R40, R234); without an answer it hands over all it can (log entry 17). A read of a closed stream hands over
nothing (R235), and a read that is not in progress is not answered. -/
def Obligations.ReaderLoop : Prop :=
  ∀ s : State,
    (s.agenda = [] → s.reader = .between → s.stop = true → step s = .next { s with reader := .halted }) ∧
    (s.agenda = [] → s.reader = .between → s.stop = false → step s = .next { s with reader := .reading }) ∧
    (s.agenda = [] → s.reader = .halted → step s = .next s) ∧
    (∀ rest, s.agenda = .readTimeout :: rest → s.reader = .reading →
      step s = .next { s with reader := .between, agenda := rest }) ∧
    (∀ rest, s.agenda = .readError :: rest → s.reader = .reading →
      step s = .next { s with reader := .between, agenda := rest }) ∧
    (s.shutdown ≠ .closed → s.reader = .reading →
      (s.agenda = [] → step s = .next { s with
        reader := if s.rx = [] then .between else .feeding (s.rx.take s.par.scratchSize)
        rx := s.rx.drop s.par.scratchSize }) ∧
      (∀ n rest, s.agenda = .readData n :: rest → step s = .next { s with
        agenda := rest
        reader := if n = 0 ∨ s.rx = [] then .between else .feeding (s.rx.take (min n s.par.scratchSize))
        rx := s.rx.drop (min n s.par.scratchSize) })) ∧
    (s.shutdown = .closed → s.reader = .reading →
      (s.agenda = [] → step s = .next { s with reader := .between }) ∧
      (∀ n rest, s.agenda = .readData n :: rest → step s = .next { s with reader := .between, agenda := rest })) ∧
    (s.reader ≠ .reading → ∀ n rest, s.agenda = .readData n :: rest → step s = .next { s with agenda := rest }) ∧
    (∀ b left, s.agenda = [] → s.reader = .feeding (b :: left) → s.parser.Inv →
      step { s with stop := true } =
        match step { s with stop := false } with
        | .next t => .next { t with stop := true }
        | .fault f => .fault f
        | .refused r => .refused r)

/-! ### Reset and invariants -/

/-- R29, R231: the reset values the spec gives, its decision D13. -/
def Obligations.ResetValues : Prop :=
  State.reset.parser.st = .searchHeader ∧ State.reset.parser.rb = none ∧ State.reset.q = [] ∧
  State.reset.notifyCount = 0 ∧ State.reset.overflow = false ∧ State.reset.stop = false ∧
  State.reset.sendToken = .free ∧ State.reset.calls = [] ∧ State.reset.sends = []

/-- Every invariant holds at reset, and the action bytes are pairwise distinct there (R5, R30). -/
def Obligations.InvariantsHoldAtReset : Prop :=
  State.reset.parser.Inv ∧ State.reset.QueueInv ∧ State.reset.SendInv ∧ State.reset.CallInv ∧
  State.reset.WakeInv ∧ State.reset.par.distinct

/-- R30 (a) to (e), an inference the spec marks as its own, are kept by every step. -/
def Obligations.StepKeepsParserInvariant : Prop :=
  ∀ s t : State, s.parser.Inv → step s = .next t → t.parser.Inv

/-- R30 (f) and (g), an inference the spec marks as its own, are kept by every step. -/
def Obligations.StepKeepsQueueInvariant : Prop :=
  ∀ s t : State, s.QueueInv → step s = .next t → t.QueueInv

/-- The token is held by exactly one sender or by none, through every step: whole frames exclude one another (R51,
R188). That sends carry numbers is the model's (log entry 24). -/
def Obligations.StepKeepsSendInvariant : Prop :=
  ∀ s t : State, s.SendInv → step s = .next t → t.SendInv

/-- A blocked call always has a wait it can be woken from, through every step (R26, R154). No wake-up is lost as long as no
more consumers are blocked than `NOTIFY_CAP` (R167 (b)), so that a blocked consumer with a packet in `q`, and nobody about to
look at the queue, has WAKE enabled, and its look after that removes the head of `q` (R167 (a)). R167 is an inference the spec
marks as its own; that calls carry numbers is the model's (log entry 24). -/
def Obligations.StepKeepsCallInvariant : Prop :=
  ∀ s t : State, s.CallInv →
    (step s = .next t → t.CallInv) ∧
    (s.WakeInv → s.blocked ≤ s.par.notifyCap → step s = .next t → t.WakeInv) ∧
    (∀ c ∈ s.calls, s.WakeInv → s.looking = 0 → c.phase = .waiting → s.q ≠ [] →
      0 < s.notifyCount ∧
      ∀ rest, s.agenda = .wake c.id :: rest →
        ∃ u, step s = .next u ∧ u.notifyCount + 1 = s.notifyCount ∧ (callStep c.id u).q = s.q.tail)

/-- No step undoes what R23, R24, R28 and the streams' contracts keep: parameters, sticky bits, bytes written, results
given, signals fired, time. -/
def Obligations.StepOnlyGoesOnward : Prop :=
  ∀ s t : State, step s = .next t → s.Onward t

/-- R49 (a), (b), R165: a step takes packets from the head of the queue or adds them at its tail; it never reorders, drops
from the middle or inserts. -/
def Obligations.QueueMovesInOrder : Prop :=
  ∀ s t : State, step s = .next t → t.q <:+ s.q ∨ s.q <+: t.q
end

