-- ==== Sys2Proof/Laws/Decode.lean ====
section
/-!
SUPPORT. The fields of a header byte put together and read back, payloads, and the decoder's words.
-/

namespace Sys2Proof

section
variable (o : Origin) (r e : Bool) (c : BitVec 5)

@[simp] theorem originOf_flagsByte : originOf (flagsByte o r e c) = o := by
  revert c; cases o <;> cases r <;> cases e <;> decide

@[simp] theorem roleOf_flagsByte : roleOf (flagsByte o r e c) = r := by
  revert c; cases o <;> cases r <;> cases e <;> decide

@[simp] theorem embeddedOf_flagsByte : embeddedOf (flagsByte o r e c) = e := by
  revert c; cases o <;> cases r <;> cases e <;> decide

@[simp] theorem commandOf_flagsByte : commandOf (flagsByte o r e c) = c := by
  revert c; cases o <;> cases r <;> cases e <;> decide

end

@[simp] theorem crc16selOf_lengthByte (s : Bool) (n : BitVec 7) : crc16selOf (lengthByte s n) = s := by
  revert n; cases s <;> decide

@[simp] theorem lengthOf_lengthByte (s : Bool) (n : BitVec 7) : lengthOf (lengthByte s n) = n := by
  revert n; cases s <;> decide

@[simp] theorem highByte_bePair (hi lo : Byte) : highByte (bePair hi lo) = hi := by
  simp only [highByte, bePair]
  ext i hi'
  simp only [BitVec.getElem_extractLsb']
  exact BitVec.getLsbD_append.trans (by simp [BitVec.getLsbD_eq_getElem hi'])

@[simp] theorem lowByte_bePair (hi lo : Byte) : lowByte (bePair hi lo) = lo := by
  simp only [lowByte, bePair]
  ext i hi'
  simp only [BitVec.getElem_extractLsb', Nat.zero_add]
  exact BitVec.getLsbD_append.trans (by simp [hi'])

@[simp] theorem bePair_high_low (v : Word16) : bePair (highByte v) (lowByte v) = v := by
  simp only [bePair, highByte, lowByte]
  ext i hi
  simp only [BitVec.getElem_append, BitVec.getElem_extractLsb']
  split
  · simp [BitVec.getLsbD_eq_getElem hi]
  · next h => rw [BitVec.getLsbD_eq_getElem (by omega)]; congr 1; omega

@[simp] theorem Head.ofBytes_flagsByte (h : Head) (e : Bool) :
    Head.ofBytes h.addr (flagsByte h.origin h.role e h.command) = h := by
  simp [Head.ofBytes]

@[simp] theorem Payload.val_empty : Payload.empty.val = [] := rfl
@[simp] theorem Payload.val_one (b : Byte) : (Payload.one b).val = [b] := rfl
@[simp] theorem Payload.val_take (n : BitVec 7) (l : List Byte) : (Payload.take n l).val = l.take n.toNat := rfl

/-- A payload's length fits the 7-bit length field. -/
theorem Payload.toNat_length (pl : Payload) : (BitVec.ofNat 7 pl.val.length).toNat = pl.val.length := by
  have h := pl.property
  simp only [BitVec.toNat_ofNat]
  omega

/-- A packet a frame record classifies as is valid (R139). -/
theorem classify_valid {r : FrameRecord} {p : Packet} (h : classify r = some p) : p.valid = true := by
  unfold classify at h
  split at h
  · next hv => cases h; exact hv
  · cases h

/-- The record of a Packet's own fields extracts to the Packet (R131). -/
theorem extract_flagsByte (p : Packet) (e : Bool) :
    FrameRecord.extract ⟨p.address, flagsByte p.origin p.roleFlag e p.command, p.payload⟩ = p := by
  simp [FrameRecord.extract]

/-- A valid Packet is what the record of its own fields classifies as (R130, R131). -/
theorem classify_of_valid {p : Packet} (hv : p.valid = true) (e : Bool) :
    classify ⟨p.address, flagsByte p.origin p.roleFlag e p.command, p.payload⟩ = some p := by
  simp [classify, extract_flagsByte, hv]

/-- A constructed Packet is valid (R143). -/
theorem construct_valid {d : Draft} {p : Packet} (h : d.construct = some p) : p.valid = true := by
  have build : ∀ {o a c l f}, Packet.build o a c l f = some p → p.valid = true := by
    intro o a c l f hb
    unfold Packet.build at hb
    split at hb
    · cases hb
    · simp only at hb
      split at hb
      · next hc => cases hb; simp only [Bool.and_eq_true] at hc; exact hc.2
      · cases hb
  cases d <;> simp only [Draft.construct] at h
  · split at h
    · cases h
    · exact build h
  · split at h
    · cases h
    · exact build h
  · exact build h
  · exact build h

/-- What `firstAccepted` gives when it finds an entry (R159). -/
theorem firstAccepted_some {role : Role} {q rest : List Packet} {p : Packet}
    (h : firstAccepted role q = (some p, rest)) :
    ∃ skipped, q = skipped ++ p :: rest ∧ role.accepts p = true ∧ ∀ x ∈ skipped, role.accepts x = false := by
  induction q with
  | nil => simp [firstAccepted] at h
  | cons a q ih =>
    simp only [firstAccepted] at h
    split at h
    · next ha => cases h; exact ⟨[], rfl, ha, by simp⟩
    · next ha =>
      obtain ⟨sk, rfl, hp, hs⟩ := ih h
      exact ⟨a :: sk, rfl, hp, by simpa [ha] using hs⟩

/-- When it finds none, nothing is left and nothing was accepted. -/
theorem firstAccepted_none {role : Role} {q rest : List Packet} (h : firstAccepted role q = (none, rest)) :
    rest = [] ∧ ∀ x ∈ q, role.accepts x = false := by
  induction q with
  | nil => simp only [firstAccepted, Prod.mk.injEq, true_and] at h; simp [← h]
  | cons a q ih =>
    simp only [firstAccepted] at h
    split at h
    · cases h
    · next ha => simpa [ha] using ih h

/-- The entries passed over are skipped, the first accepted one is found (R159 to R161). -/
theorem firstAccepted_append {role : Role} {skipped rest : List Packet} {p : Packet}
    (hs : ∀ x ∈ skipped, role.accepts x = false) (hp : role.accepts p = true) :
    firstAccepted role (skipped ++ p :: rest) = (some p, rest) := by
  induction skipped with
  | nil => simp [firstAccepted, hp]
  | cons a sk ih =>
    simp only [List.mem_cons, forall_eq_or_imp] at hs
    simp [firstAccepted, hs.1, ih hs.2]

/-- A queue with nothing to accept is emptied. -/
theorem firstAccepted_all_skipped {role : Role} {q : List Packet} (hs : ∀ x ∈ q, role.accepts x = false) :
    firstAccepted role q = (none, []) := by
  induction q with
  | nil => rfl
  | cons a q ih =>
    simp only [List.mem_cons, forall_eq_or_imp] at hs
    simp [firstAccepted, hs.1, ih hs.2]

/-- The table's frame words are read as the frame decoder reads the same header bytes followed by zeros. -/
theorem decodeBody_zeros (b2 b3 : Byte) :
    (decodeBody 0 b2 b3 (List.replicate 129 0)).map Prod.fst = .ok (decodeHeaderWord b2 b3) := by
  have hn := (lengthOf b3).isLt
  have hd : List.drop (lengthOf b3).toNat (List.replicate 129 (0 : Byte)) =
      0 :: 0 :: List.replicate (127 - (lengthOf b3).toNat) 0 := by
    rw [List.drop_replicate, ← List.replicate_succ, ← List.replicate_succ]
    congr 1
    omega
  have ht : Payload.take (lengthOf b3) (List.replicate 129 0) = Payload.take (lengthOf b3) (List.replicate 127 0) := by
    apply Subtype.ext
    simp only [Payload.val_take, List.take_replicate]
    congr 1
    omega
  simp only [decodeBody, decodeHeaderWord, hd, ht]
  cases formOf b2 b3 <;> rfl

end Sys2Proof
end

