-- ==== Sys2Proof/Laws/State.lean ====
section
/-!
SUPPORT. One lemma per field for each update of the state and of the parser: what the field is afterwards.
-/

namespace Sys2Proof.Machine

section
variable (s : State) (o : Output)
@[simp] theorem output_par : (output o s).par = s.par := rfl
@[simp] theorem output_parser : (output o s).parser = s.parser := rfl
@[simp] theorem output_q : (output o s).q = s.q := rfl
@[simp] theorem output_notifyCount : (output o s).notifyCount = s.notifyCount := rfl
@[simp] theorem output_overflow : (output o s).overflow = s.overflow := rfl
@[simp] theorem output_stop : (output o s).stop = s.stop := rfl
@[simp] theorem output_sendToken : (output o s).sendToken = s.sendToken := rfl
@[simp] theorem output_calls : (output o s).calls = s.calls := rfl
@[simp] theorem output_sends : (output o s).sends = s.sends := rfl
@[simp] theorem output_shutdown : (output o s).shutdown = s.shutdown := rfl
@[simp] theorem output_reader : (output o s).reader = s.reader := rfl
@[simp] theorem output_rx : (output o s).rx = s.rx := rfl
@[simp] theorem output_tx : (output o s).tx = s.tx := rfl
@[simp] theorem output_fired : (output o s).fired = s.fired := rfl
@[simp] theorem output_now : (output o s).now = s.now := rfl
@[simp] theorem output_writeFault : (output o s).writeFault = s.writeFault := rfl
@[simp] theorem output_nextCall : (output o s).nextCall = s.nextCall := rfl
@[simp] theorem output_nextSend : (output o s).nextSend = s.nextSend := rfl
@[simp] theorem output_choices : (output o s).choices = s.choices := rfl
@[simp] theorem output_out : (output o s).out = s.out ++ [o] := rfl
@[simp] theorem output_agenda : (output o s).agenda = s.agenda := rfl
end

section
variable (s : State) (f : Parser → Parser)
@[simp] theorem onParser_par : (onParser f s).par = s.par := rfl
@[simp] theorem onParser_parser : (onParser f s).parser = f s.parser := rfl
@[simp] theorem onParser_q : (onParser f s).q = s.q := rfl
@[simp] theorem onParser_notifyCount : (onParser f s).notifyCount = s.notifyCount := rfl
@[simp] theorem onParser_overflow : (onParser f s).overflow = s.overflow := rfl
@[simp] theorem onParser_stop : (onParser f s).stop = s.stop := rfl
@[simp] theorem onParser_sendToken : (onParser f s).sendToken = s.sendToken := rfl
@[simp] theorem onParser_calls : (onParser f s).calls = s.calls := rfl
@[simp] theorem onParser_sends : (onParser f s).sends = s.sends := rfl
@[simp] theorem onParser_shutdown : (onParser f s).shutdown = s.shutdown := rfl
@[simp] theorem onParser_reader : (onParser f s).reader = s.reader := rfl
@[simp] theorem onParser_rx : (onParser f s).rx = s.rx := rfl
@[simp] theorem onParser_tx : (onParser f s).tx = s.tx := rfl
@[simp] theorem onParser_fired : (onParser f s).fired = s.fired := rfl
@[simp] theorem onParser_now : (onParser f s).now = s.now := rfl
@[simp] theorem onParser_writeFault : (onParser f s).writeFault = s.writeFault := rfl
@[simp] theorem onParser_nextCall : (onParser f s).nextCall = s.nextCall := rfl
@[simp] theorem onParser_nextSend : (onParser f s).nextSend = s.nextSend := rfl
@[simp] theorem onParser_choices : (onParser f s).choices = s.choices := rfl
@[simp] theorem onParser_out : (onParser f s).out = s.out := rfl
@[simp] theorem onParser_agenda : (onParser f s).agenda = s.agenda := rfl
end

section
variable (s : State)
@[simp] theorem signal_par : (signal s).par = s.par := rfl
@[simp] theorem signal_parser : (signal s).parser = s.parser := rfl
@[simp] theorem signal_q : (signal s).q = s.q := rfl
@[simp] theorem signal_notifyCount : (signal s).notifyCount = if s.notifyCount < s.par.notifyCap then s.notifyCount + 1 else s.notifyCount := rfl
@[simp] theorem signal_overflow : (signal s).overflow = s.overflow := rfl
@[simp] theorem signal_stop : (signal s).stop = s.stop := rfl
@[simp] theorem signal_sendToken : (signal s).sendToken = s.sendToken := rfl
@[simp] theorem signal_calls : (signal s).calls = s.calls := rfl
@[simp] theorem signal_sends : (signal s).sends = s.sends := rfl
@[simp] theorem signal_shutdown : (signal s).shutdown = s.shutdown := rfl
@[simp] theorem signal_reader : (signal s).reader = s.reader := rfl
@[simp] theorem signal_rx : (signal s).rx = s.rx := rfl
@[simp] theorem signal_tx : (signal s).tx = s.tx := rfl
@[simp] theorem signal_fired : (signal s).fired = s.fired := rfl
@[simp] theorem signal_now : (signal s).now = s.now := rfl
@[simp] theorem signal_writeFault : (signal s).writeFault = s.writeFault := rfl
@[simp] theorem signal_nextCall : (signal s).nextCall = s.nextCall := rfl
@[simp] theorem signal_nextSend : (signal s).nextSend = s.nextSend := rfl
@[simp] theorem signal_choices : (signal s).choices = s.choices := rfl
@[simp] theorem signal_out : (signal s).out = s.out := rfl
@[simp] theorem signal_agenda : (signal s).agenda = s.agenda := rfl
end

section
variable (s : State) (p : Packet)
@[simp] theorem overflowDrop_par : (overflowDrop p s).par = s.par := rfl
@[simp] theorem overflowDrop_parser : (overflowDrop p s).parser = s.parser := rfl
@[simp] theorem overflowDrop_q : (overflowDrop p s).q = s.q := rfl
@[simp] theorem overflowDrop_notifyCount : (overflowDrop p s).notifyCount = s.notifyCount := rfl
@[simp] theorem overflowDrop_overflow : (overflowDrop p s).overflow = true := rfl
@[simp] theorem overflowDrop_stop : (overflowDrop p s).stop = s.stop := rfl
@[simp] theorem overflowDrop_sendToken : (overflowDrop p s).sendToken = s.sendToken := rfl
@[simp] theorem overflowDrop_calls : (overflowDrop p s).calls = s.calls := rfl
@[simp] theorem overflowDrop_sends : (overflowDrop p s).sends = s.sends := rfl
@[simp] theorem overflowDrop_shutdown : (overflowDrop p s).shutdown = s.shutdown := rfl
@[simp] theorem overflowDrop_reader : (overflowDrop p s).reader = s.reader := rfl
@[simp] theorem overflowDrop_rx : (overflowDrop p s).rx = s.rx := rfl
@[simp] theorem overflowDrop_tx : (overflowDrop p s).tx = s.tx := rfl
@[simp] theorem overflowDrop_fired : (overflowDrop p s).fired = s.fired := rfl
@[simp] theorem overflowDrop_now : (overflowDrop p s).now = s.now := rfl
@[simp] theorem overflowDrop_writeFault : (overflowDrop p s).writeFault = s.writeFault := rfl
@[simp] theorem overflowDrop_nextCall : (overflowDrop p s).nextCall = s.nextCall := rfl
@[simp] theorem overflowDrop_nextSend : (overflowDrop p s).nextSend = s.nextSend := rfl
@[simp] theorem overflowDrop_choices : (overflowDrop p s).choices = s.choices := rfl
@[simp] theorem overflowDrop_out : (overflowDrop p s).out = s.out := rfl
@[simp] theorem overflowDrop_agenda : (overflowDrop p s).agenda = s.agenda := rfl
end

section
variable (s : State) (bytes : List Byte)
@[simp] theorem arrive_par : (arrive bytes s).par = s.par := rfl
@[simp] theorem arrive_parser : (arrive bytes s).parser = s.parser := rfl
@[simp] theorem arrive_q : (arrive bytes s).q = s.q := rfl
@[simp] theorem arrive_notifyCount : (arrive bytes s).notifyCount = s.notifyCount := rfl
@[simp] theorem arrive_overflow : (arrive bytes s).overflow = s.overflow := rfl
@[simp] theorem arrive_stop : (arrive bytes s).stop = s.stop := rfl
@[simp] theorem arrive_sendToken : (arrive bytes s).sendToken = s.sendToken := rfl
@[simp] theorem arrive_calls : (arrive bytes s).calls = s.calls := rfl
@[simp] theorem arrive_sends : (arrive bytes s).sends = s.sends := rfl
@[simp] theorem arrive_shutdown : (arrive bytes s).shutdown = s.shutdown := rfl
@[simp] theorem arrive_reader : (arrive bytes s).reader = s.reader := rfl
@[simp] theorem arrive_rx : (arrive bytes s).rx = s.rx ++ bytes := rfl
@[simp] theorem arrive_tx : (arrive bytes s).tx = s.tx := rfl
@[simp] theorem arrive_fired : (arrive bytes s).fired = s.fired := rfl
@[simp] theorem arrive_now : (arrive bytes s).now = s.now := rfl
@[simp] theorem arrive_writeFault : (arrive bytes s).writeFault = s.writeFault := rfl
@[simp] theorem arrive_nextCall : (arrive bytes s).nextCall = s.nextCall := rfl
@[simp] theorem arrive_nextSend : (arrive bytes s).nextSend = s.nextSend := rfl
@[simp] theorem arrive_choices : (arrive bytes s).choices = s.choices := rfl
@[simp] theorem arrive_out : (arrive bytes s).out = s.out := rfl
@[simp] theorem arrive_agenda : (arrive bytes s).agenda = s.agenda := rfl
end

section
variable (s : State)
@[simp] theorem takeCount_par : (takeCount s).par = s.par := rfl
@[simp] theorem takeCount_parser : (takeCount s).parser = s.parser := rfl
@[simp] theorem takeCount_q : (takeCount s).q = s.q := rfl
@[simp] theorem takeCount_notifyCount : (takeCount s).notifyCount = s.notifyCount - 1 := rfl
@[simp] theorem takeCount_overflow : (takeCount s).overflow = s.overflow := rfl
@[simp] theorem takeCount_stop : (takeCount s).stop = s.stop := rfl
@[simp] theorem takeCount_sendToken : (takeCount s).sendToken = s.sendToken := rfl
@[simp] theorem takeCount_calls : (takeCount s).calls = s.calls := rfl
@[simp] theorem takeCount_sends : (takeCount s).sends = s.sends := rfl
@[simp] theorem takeCount_shutdown : (takeCount s).shutdown = s.shutdown := rfl
@[simp] theorem takeCount_reader : (takeCount s).reader = s.reader := rfl
@[simp] theorem takeCount_rx : (takeCount s).rx = s.rx := rfl
@[simp] theorem takeCount_tx : (takeCount s).tx = s.tx := rfl
@[simp] theorem takeCount_fired : (takeCount s).fired = s.fired := rfl
@[simp] theorem takeCount_now : (takeCount s).now = s.now := rfl
@[simp] theorem takeCount_writeFault : (takeCount s).writeFault = s.writeFault := rfl
@[simp] theorem takeCount_nextCall : (takeCount s).nextCall = s.nextCall := rfl
@[simp] theorem takeCount_nextSend : (takeCount s).nextSend = s.nextSend := rfl
@[simp] theorem takeCount_choices : (takeCount s).choices = s.choices := rfl
@[simp] theorem takeCount_out : (takeCount s).out = s.out := rfl
@[simp] theorem takeCount_agenda : (takeCount s).agenda = s.agenda := rfl
end

section
variable (s : State) (id : Nat)
@[simp] theorem dropCall_par : (dropCall id s).par = s.par := rfl
@[simp] theorem dropCall_parser : (dropCall id s).parser = s.parser := rfl
@[simp] theorem dropCall_q : (dropCall id s).q = s.q := rfl
@[simp] theorem dropCall_notifyCount : (dropCall id s).notifyCount = s.notifyCount := rfl
@[simp] theorem dropCall_overflow : (dropCall id s).overflow = s.overflow := rfl
@[simp] theorem dropCall_stop : (dropCall id s).stop = s.stop := rfl
@[simp] theorem dropCall_sendToken : (dropCall id s).sendToken = s.sendToken := rfl
@[simp] theorem dropCall_calls : (dropCall id s).calls = s.calls.filter (fun c => c.id != id) := rfl
@[simp] theorem dropCall_sends : (dropCall id s).sends = s.sends := rfl
@[simp] theorem dropCall_shutdown : (dropCall id s).shutdown = s.shutdown := rfl
@[simp] theorem dropCall_reader : (dropCall id s).reader = s.reader := rfl
@[simp] theorem dropCall_rx : (dropCall id s).rx = s.rx := rfl
@[simp] theorem dropCall_tx : (dropCall id s).tx = s.tx := rfl
@[simp] theorem dropCall_fired : (dropCall id s).fired = s.fired := rfl
@[simp] theorem dropCall_now : (dropCall id s).now = s.now := rfl
@[simp] theorem dropCall_writeFault : (dropCall id s).writeFault = s.writeFault := rfl
@[simp] theorem dropCall_nextCall : (dropCall id s).nextCall = s.nextCall := rfl
@[simp] theorem dropCall_nextSend : (dropCall id s).nextSend = s.nextSend := rfl
@[simp] theorem dropCall_choices : (dropCall id s).choices = s.choices := rfl
@[simp] theorem dropCall_out : (dropCall id s).out = s.out := rfl
@[simp] theorem dropCall_agenda : (dropCall id s).agenda = s.agenda := rfl
end

section
variable (s : State) (id : Nat) (ph : CallPhase)
@[simp] theorem setCallPhase_par : (setCallPhase id ph s).par = s.par := rfl
@[simp] theorem setCallPhase_parser : (setCallPhase id ph s).parser = s.parser := rfl
@[simp] theorem setCallPhase_q : (setCallPhase id ph s).q = s.q := rfl
@[simp] theorem setCallPhase_notifyCount : (setCallPhase id ph s).notifyCount = s.notifyCount := rfl
@[simp] theorem setCallPhase_overflow : (setCallPhase id ph s).overflow = s.overflow := rfl
@[simp] theorem setCallPhase_stop : (setCallPhase id ph s).stop = s.stop := rfl
@[simp] theorem setCallPhase_sendToken : (setCallPhase id ph s).sendToken = s.sendToken := rfl
@[simp] theorem setCallPhase_calls : (setCallPhase id ph s).calls = s.calls.map (fun c => if c.id = id then { c with phase := ph } else c) := rfl
@[simp] theorem setCallPhase_sends : (setCallPhase id ph s).sends = s.sends := rfl
@[simp] theorem setCallPhase_shutdown : (setCallPhase id ph s).shutdown = s.shutdown := rfl
@[simp] theorem setCallPhase_reader : (setCallPhase id ph s).reader = s.reader := rfl
@[simp] theorem setCallPhase_rx : (setCallPhase id ph s).rx = s.rx := rfl
@[simp] theorem setCallPhase_tx : (setCallPhase id ph s).tx = s.tx := rfl
@[simp] theorem setCallPhase_fired : (setCallPhase id ph s).fired = s.fired := rfl
@[simp] theorem setCallPhase_now : (setCallPhase id ph s).now = s.now := rfl
@[simp] theorem setCallPhase_writeFault : (setCallPhase id ph s).writeFault = s.writeFault := rfl
@[simp] theorem setCallPhase_nextCall : (setCallPhase id ph s).nextCall = s.nextCall := rfl
@[simp] theorem setCallPhase_nextSend : (setCallPhase id ph s).nextSend = s.nextSend := rfl
@[simp] theorem setCallPhase_choices : (setCallPhase id ph s).choices = s.choices := rfl
@[simp] theorem setCallPhase_out : (setCallPhase id ph s).out = s.out := rfl
@[simp] theorem setCallPhase_agenda : (setCallPhase id ph s).agenda = s.agenda := rfl
end

section
variable (s : State) (id : Nat) (ph : SendPhase)
@[simp] theorem setSendPhase_par : (setSendPhase id ph s).par = s.par := rfl
@[simp] theorem setSendPhase_parser : (setSendPhase id ph s).parser = s.parser := rfl
@[simp] theorem setSendPhase_q : (setSendPhase id ph s).q = s.q := rfl
@[simp] theorem setSendPhase_notifyCount : (setSendPhase id ph s).notifyCount = s.notifyCount := rfl
@[simp] theorem setSendPhase_overflow : (setSendPhase id ph s).overflow = s.overflow := rfl
@[simp] theorem setSendPhase_stop : (setSendPhase id ph s).stop = s.stop := rfl
@[simp] theorem setSendPhase_sendToken : (setSendPhase id ph s).sendToken = s.sendToken := rfl
@[simp] theorem setSendPhase_calls : (setSendPhase id ph s).calls = s.calls := rfl
@[simp] theorem setSendPhase_sends : (setSendPhase id ph s).sends = s.sends.map (fun x => if x.id = id then { x with phase := ph } else x) := rfl
@[simp] theorem setSendPhase_shutdown : (setSendPhase id ph s).shutdown = s.shutdown := rfl
@[simp] theorem setSendPhase_reader : (setSendPhase id ph s).reader = s.reader := rfl
@[simp] theorem setSendPhase_rx : (setSendPhase id ph s).rx = s.rx := rfl
@[simp] theorem setSendPhase_tx : (setSendPhase id ph s).tx = s.tx := rfl
@[simp] theorem setSendPhase_fired : (setSendPhase id ph s).fired = s.fired := rfl
@[simp] theorem setSendPhase_now : (setSendPhase id ph s).now = s.now := rfl
@[simp] theorem setSendPhase_writeFault : (setSendPhase id ph s).writeFault = s.writeFault := rfl
@[simp] theorem setSendPhase_nextCall : (setSendPhase id ph s).nextCall = s.nextCall := rfl
@[simp] theorem setSendPhase_nextSend : (setSendPhase id ph s).nextSend = s.nextSend := rfl
@[simp] theorem setSendPhase_choices : (setSendPhase id ph s).choices = s.choices := rfl
@[simp] theorem setSendPhase_out : (setSendPhase id ph s).out = s.out := rfl
@[simp] theorem setSendPhase_agenda : (setSendPhase id ph s).agenda = s.agenda := rfl
end

section
variable (s : State)
@[simp] theorem beginIteration_par : (beginIteration s).par = s.par := rfl
@[simp] theorem beginIteration_parser : (beginIteration s).parser = s.parser := rfl
@[simp] theorem beginIteration_q : (beginIteration s).q = s.q := rfl
@[simp] theorem beginIteration_notifyCount : (beginIteration s).notifyCount = s.notifyCount := rfl
@[simp] theorem beginIteration_overflow : (beginIteration s).overflow = s.overflow := rfl
@[simp] theorem beginIteration_stop : (beginIteration s).stop = s.stop := rfl
@[simp] theorem beginIteration_sendToken : (beginIteration s).sendToken = s.sendToken := rfl
@[simp] theorem beginIteration_calls : (beginIteration s).calls = s.calls := rfl
@[simp] theorem beginIteration_sends : (beginIteration s).sends = s.sends := rfl
@[simp] theorem beginIteration_shutdown : (beginIteration s).shutdown = s.shutdown := rfl
@[simp] theorem beginIteration_reader : (beginIteration s).reader = if s.stop then .halted else .reading := rfl
@[simp] theorem beginIteration_rx : (beginIteration s).rx = s.rx := rfl
@[simp] theorem beginIteration_tx : (beginIteration s).tx = s.tx := rfl
@[simp] theorem beginIteration_fired : (beginIteration s).fired = s.fired := rfl
@[simp] theorem beginIteration_now : (beginIteration s).now = s.now := rfl
@[simp] theorem beginIteration_writeFault : (beginIteration s).writeFault = s.writeFault := rfl
@[simp] theorem beginIteration_nextCall : (beginIteration s).nextCall = s.nextCall := rfl
@[simp] theorem beginIteration_nextSend : (beginIteration s).nextSend = s.nextSend := rfl
@[simp] theorem beginIteration_choices : (beginIteration s).choices = s.choices := rfl
@[simp] theorem beginIteration_out : (beginIteration s).out = s.out := rfl
@[simp] theorem beginIteration_agenda : (beginIteration s).agenda = s.agenda := rfl
end

section
variable (p : Parser)
@[simp] theorem Parser.returnToSearch_st : (Parser.returnToSearch p).st = .searchHeader := rfl
@[simp] theorem Parser.returnToSearch_hdr : (Parser.returnToSearch p).hdr = p.hdr := rfl
@[simp] theorem Parser.returnToSearch_rb : (Parser.returnToSearch p).rb = none := rfl
@[simp] theorem Parser.returnToSearch_paylen : (Parser.returnToSearch p).paylen = p.paylen := rfl
@[simp] theorem Parser.returnToSearch_remaining : (Parser.returnToSearch p).remaining = p.remaining := rfl
@[simp] theorem Parser.returnToSearch_pay : (Parser.returnToSearch p).pay = p.pay := rfl
@[simp] theorem Parser.returnToSearch_crcHi : (Parser.returnToSearch p).crcHi = p.crcHi := rfl
end

section
variable (p : Parser)
@[simp] theorem Parser.takeSync_st : (Parser.takeSync p).st = .waitAddress := rfl
@[simp] theorem Parser.takeSync_hdr : (Parser.takeSync p).hdr = p.hdr.set 0 Config.sync := rfl
@[simp] theorem Parser.takeSync_rb : (Parser.takeSync p).rb = none := rfl
@[simp] theorem Parser.takeSync_paylen : (Parser.takeSync p).paylen = p.paylen := rfl
@[simp] theorem Parser.takeSync_remaining : (Parser.takeSync p).remaining = p.remaining := rfl
@[simp] theorem Parser.takeSync_pay : (Parser.takeSync p).pay = p.pay := rfl
@[simp] theorem Parser.takeSync_crcHi : (Parser.takeSync p).crcHi = p.crcHi := rfl
end

section
variable (p : Parser) (b : Byte)
@[simp] theorem Parser.takeAddr_st : (Parser.takeAddr b p).st = .waitCommand := rfl
@[simp] theorem Parser.takeAddr_hdr : (Parser.takeAddr b p).hdr = p.hdr.set 1 b := rfl
@[simp] theorem Parser.takeAddr_rb : (Parser.takeAddr b p).rb = recordCand .k1 b p.rb := rfl
@[simp] theorem Parser.takeAddr_paylen : (Parser.takeAddr b p).paylen = p.paylen := rfl
@[simp] theorem Parser.takeAddr_remaining : (Parser.takeAddr b p).remaining = p.remaining := rfl
@[simp] theorem Parser.takeAddr_pay : (Parser.takeAddr b p).pay = p.pay := rfl
@[simp] theorem Parser.takeAddr_crcHi : (Parser.takeAddr b p).crcHi = p.crcHi := rfl
end

section
variable (p : Parser) (b : Byte)
@[simp] theorem Parser.takeCmd_st : (Parser.takeCmd b p).st = .waitDataLength := rfl
@[simp] theorem Parser.takeCmd_hdr : (Parser.takeCmd b p).hdr = p.hdr.set 2 b := rfl
@[simp] theorem Parser.takeCmd_rb : (Parser.takeCmd b p).rb = recordCand .k2 b p.rb := rfl
@[simp] theorem Parser.takeCmd_paylen : (Parser.takeCmd b p).paylen = p.paylen := rfl
@[simp] theorem Parser.takeCmd_remaining : (Parser.takeCmd b p).remaining = p.remaining := rfl
@[simp] theorem Parser.takeCmd_pay : (Parser.takeCmd b p).pay = p.pay := rfl
@[simp] theorem Parser.takeCmd_crcHi : (Parser.takeCmd b p).crcHi = p.crcHi := rfl
end

section
variable (p : Parser) (b : Byte)
@[simp] theorem Parser.takeLen_st : (Parser.takeLen b p).st = .waitHeaderCrc8 := rfl
@[simp] theorem Parser.takeLen_hdr : (Parser.takeLen b p).hdr = p.hdr.set 3 b := rfl
@[simp] theorem Parser.takeLen_rb : (Parser.takeLen b p).rb = recordCand .k3 b p.rb := rfl
@[simp] theorem Parser.takeLen_paylen : (Parser.takeLen b p).paylen = p.paylen := rfl
@[simp] theorem Parser.takeLen_remaining : (Parser.takeLen b p).remaining = p.remaining := rfl
@[simp] theorem Parser.takeLen_pay : (Parser.takeLen b p).pay = p.pay := rfl
@[simp] theorem Parser.takeLen_crcHi : (Parser.takeLen b p).crcHi = p.crcHi := rfl
end

section
variable (p : Parser) (b : Byte)
@[simp] theorem Parser.storePay_st : (Parser.storePay b p).st = p.st := rfl
@[simp] theorem Parser.storePay_hdr : (Parser.storePay b p).hdr = p.hdr := rfl
@[simp] theorem Parser.storePay_rb : (Parser.storePay b p).rb = p.rb := rfl
@[simp] theorem Parser.storePay_paylen : (Parser.storePay b p).paylen = p.paylen := rfl
@[simp] theorem Parser.storePay_remaining : (Parser.storePay b p).remaining = p.remaining - 1 := rfl
@[simp] theorem Parser.storePay_pay : (Parser.storePay b p).pay = p.pay.setIfInBounds (p.paylen - p.remaining).toNat b := rfl
@[simp] theorem Parser.storePay_crcHi : (Parser.storePay b p).crcHi = p.crcHi := rfl
end

end Sys2Proof.Machine
end

