-- ==== Sys2Proof/Laws/Ops.lean ====
section
/-!
SUPPORT. What each shared operation can do, said once: the lemmas later proofs cite instead of unfolding it.
-/

namespace Sys2Proof.Machine

/-- `t` differs from `s` at most in what the write domain owns or shares: parser, queue, notifier, overflow (R10). -/
def WriteDomain (s t : State) : Prop :=
  t = { s with parser := t.parser, q := t.q, notifyCount := t.notifyCount, overflow := t.overflow }

theorem WriteDomain.rfl {s : State} : WriteDomain s s := Eq.refl _

theorem WriteDomain.trans {s t u : State} (h : WriteDomain s t) (h' : WriteDomain t u) : WriteDomain s u := by
  unfold WriteDomain at *
  rw [h', h]

theorem onParser_writeDomain (f : Parser → Parser) (s : State) : WriteDomain s (onParser f s) := Eq.refl _

/-- A CRC-8 depends on no parameter but `T8` (R92). -/
theorem crc8_congr {par par' : Params} (h : par.t8 = par'.t8) (l : List Byte) : crc8 par l = crc8 par' l := by
  have e : crc8Fold par = crc8Fold par' := by funext c b; simp only [crc8Fold, h]
  rw [crc8, crc8, e]

/-- A CRC-16 depends on no parameter but `T16` (R93). -/
theorem crc16_congr {par par' : Params} (h : par.t16 = par'.t16) (l : List Byte) : crc16 par l = crc16 par' l := by
  have e : crc16Fold par = crc16Fold par' := by funext c b; simp only [crc16Fold, h]
  rw [crc16, crc16, e]

/-- `enqueue` (R150 to R152): room and an append with its signal, or a full queue and a recorded loss. -/
theorem enqueue_cases (p : Packet) (s : State) :
    (s.q.length < s.par.queueDepth ∧ enqueue p s = { s with
      q := s.q ++ [p]
      notifyCount := if s.notifyCount < s.par.notifyCap then s.notifyCount + 1 else s.notifyCount }) ∨
    (s.par.queueDepth ≤ s.q.length ∧ enqueue p s = { s with overflow := true }) := by
  unfold enqueue
  split
  · next h => exact .inl ⟨h, Eq.refl _⟩
  · next h => exact .inr ⟨by omega, Eq.refl _⟩

/-- `emit` (R121, R130): a valid packet is enqueued, or nothing happens. -/
theorem emit_cases (addr flags : Byte) (pl : Payload) (s : State) :
    (∃ p, classify ⟨addr, flags, pl⟩ = some p ∧ p.valid = true ∧ emit addr flags pl s = enqueue p s) ∨
    (classify ⟨addr, flags, pl⟩ = none ∧ emit addr flags pl s = s) := by
  unfold emit
  cases h : classify ⟨addr, flags, pl⟩ with
  | none => exact .inr ⟨Eq.refl _, Eq.refl _⟩
  | some p => exact .inl ⟨p, Eq.refl _, classify_valid h, Eq.refl _⟩

theorem enqueue_writeDomain (p : Packet) (s : State) : WriteDomain s (enqueue p s) := by
  obtain ⟨-, h⟩ | ⟨-, h⟩ := enqueue_cases p s <;> rw [h] <;> exact Eq.refl _

theorem emit_writeDomain (a f : Byte) (pl : Payload) (s : State) : WriteDomain s (emit a f pl s) := by
  obtain ⟨p, -, -, h⟩ | ⟨-, h⟩ := emit_cases a f pl s <;> rw [h]
  · exact enqueue_writeDomain p s
  · exact WriteDomain.rfl

@[simp] theorem enqueue_parser (p : Packet) (s : State) : (enqueue p s).parser = s.parser := by
  obtain ⟨-, h⟩ | ⟨-, h⟩ := enqueue_cases p s <;> rw [h]

@[simp] theorem emit_parser (a f : Byte) (pl : Payload) (s : State) : (emit a f pl s).parser = s.parser := by
  obtain ⟨p, -, -, h⟩ | ⟨-, h⟩ := emit_cases a f pl s <;> simp [h]

theorem complete_writeDomain (pl : Payload) (s : State) : WriteDomain s (complete pl s) :=
  (emit_writeDomain _ _ _ _).trans (onParser_writeDomain _ _)

@[simp] theorem complete_parser (pl : Payload) (s : State) : (complete pl s).parser = s.parser.returnToSearch := by
  simp [complete]

theorem applyTrans_writeDomain (t : Trans) (b : Byte) (s : State) : WriteDomain s (applyTrans t b s) := by
  cases t <;> first
    | exact WriteDomain.rfl
    | exact onParser_writeDomain _ _
    | exact complete_writeDomain _ _

/-- A byte through the parser does what the row R100 selects for it does, whichever row names it. -/
theorem parserStep_of_select {u : Trans} {b : Byte} {s : State} (t : Trans)
    (h : selectTrans s.par s.parser b = some u) : parserStep t b s = .next (applyTrans u b s) := by
  unfold parserStep
  rw [h]
  split
  · next e => cases e; exact Eq.refl _
  · exact Eq.refl _

theorem parserStep_next {t : Trans} {b : Byte} {s s' : State} (h : parserStep t b s = .next s') :
    ∃ u, selectTrans s.par s.parser b = some u ∧ s' = applyTrans u b s := by
  cases hs : selectTrans s.par s.parser b with
  | none => rw [parserStep, hs, if_neg (by simp)] at h; cases h
  | some u => rw [parserStep_of_select t hs] at h; cases h; exact ⟨u, Eq.refl _, Eq.refl _⟩

/-- The byte `b` is the next of the reader's read, or one that arrives where the reader is free. -/
def Takes (s : State) (b : Byte) : Prop := (∃ left, s.reader = .feeding (b :: left)) ∨ readerFree s = true

/-- The reader takes a byte that is its to take, by moving its own place, and nothing else. -/
theorem fetchByte_some {b : Byte} {s s' : State} (h : fetchByte b s = some s') :
    Takes s b ∧ ∃ r, s' = { s with reader := r } := by
  unfold fetchByte at h
  split at h <;> split at h <;> cases h
  · next hr e => exact ⟨.inl ⟨_, e ▸ hr⟩, _, Eq.refl _⟩
  · next hf => exact ⟨.inr hf, _, Eq.refl _⟩

/-- The reader takes the next byte of its read. -/
theorem fetchByte_feeding {b : Byte} {left : List Byte} {s : State} (h : s.reader = .feeding (b :: left)) :
    fetchByte b s = some { s with reader := afterTake left } := by
  simp [fetchByte, h]

/-- A reader that is free takes a byte that arrives. -/
theorem fetchByte_free {b : Byte} {s : State} (h : readerFree s = true) :
    fetchByte b s = some { s with reader := .between } := by
  unfold fetchByte
  split
  · next c left hr => simp [readerFree, hr] at h
  · simp [h]

/-- A transition as an instruction: the parser step of its byte, or the byte waits on the input stream. -/
theorem takeTransition_next {t : Trans} {b : Byte} {s s' : State} (h : takeTransition t b s = .next s') :
    (Takes s b ∧ ∃ u r, selectTrans s.par s.parser b = some u ∧ s' = applyTrans u b { s with reader := r }) ∨
      s' = arrive [b] s := by
  unfold takeTransition at h
  split at h
  · next s₁ hf =>
    obtain ⟨hb, r, rfl⟩ := fetchByte_some hf
    obtain ⟨u, hu, rfl⟩ := parserStep_next h
    exact .inl ⟨hb, u, r, hu, Eq.refl _⟩
  · cases h; exact .inr (Eq.refl _)

/-- R100 selects a transition exactly where the counters are as R30 (d) says (R123). -/
theorem selectTrans_isSome (par : Params) (p : Parser) (b : Byte) : (selectTrans par p b).isSome = p.live := by
  cases hs : p.st <;> simp only [selectTrans, hs]
  case waitHeaderCrc8 => simp only [Parser.live, hs]; cases p.rb <;> split <;> (try split) <;> (try split) <;> rfl
  case waitExtraData => cases hl : p.live <;> simp; split <;> rfl
  all_goals simp [Parser.live, hs]

theorem parseByte_writeDomain (s : State) (b : Byte) : WriteDomain s (parseByte s b) := by
  unfold parseByte
  split
  · exact applyTrans_writeDomain _ _ _
  · exact WriteDomain.rfl

theorem parseBytes_writeDomain (bytes : List Byte) (s : State) : WriteDomain s (parseBytes bytes s) := by
  induction bytes generalizing s with
  | nil => exact WriteDomain.rfl
  | cons b bytes ih => exact (parseByte_writeDomain s b).trans (ih _)

@[simp] theorem parseBytes_nil (s : State) : parseBytes [] s = s := Eq.refl _

@[simp] theorem parseBytes_cons (b : Byte) (bytes : List Byte) (s : State) :
    parseBytes (b :: bytes) s = parseBytes bytes (parseByte s b) := Eq.refl _

theorem parseBytes_append (xs ys : List Byte) (s : State) :
    parseBytes (xs ++ ys) s = parseBytes ys (parseBytes xs s) := List.foldl_append ..

/-- A frame runs where the reader is free and the counters are as R30 (d) says, and otherwise waits on the input stream. -/
theorem receiveFrame_next {bytes : List Byte} {s s' : State} (h : receiveFrame bytes s = .next s') :
    (readerFree s = true ∧ s.parser.live = true ∧ s' = parseBytes bytes { s with reader := .between }) ∨
      s' = arrive bytes s := by
  unfold receiveFrame at h
  split at h
  · next hf =>
    split at h <;> cases h
    next hl => exact .inl ⟨hf, hl, Eq.refl _⟩
  · cases h; exact .inr (Eq.refl _)

/-- An operation on a Packet operand: the operation, or a construction error and nothing else (R202). -/
theorem withPacket_next {p : Packet} {f : State → Host.Outcome State Fault Refusal} {s s' : State} :
    withPacket p f s = .next s' ↔
      (p.valid = true ∧ f s = .next s') ∨ (p.valid = false ∧ output .constructionError s = s') := by
  unfold withPacket
  cases h : p.valid <;> simp

/-- A receive from call to end or to its wait (R155 to R161): it only takes from the queue, and it answers or waits. -/
theorem receive_cases (role : Role) (limit : Option Limit) (s : State) :
    ∃ q', q' = (firstAccepted role s.q).2 ∧
      ((∃ r, receive role limit s =
          { s with q := q', nextCall := s.nextCall + 1, out := s.out ++ [.received s.nextCall r] }) ∨
        (∃ l, limit = some l ∧ receive role limit s =
          { s with q := q', nextCall := s.nextCall + 1,
                   calls := s.calls ++ [⟨s.nextCall, .receive role, some l, .waiting⟩] })) := by
  refine ⟨_, Eq.refl _, ?_⟩
  unfold receive
  cases h : (firstAccepted role s.q).1 with
  | some p => exact .inl ⟨_, Eq.refl _⟩
  | none =>
    cases limit with
    | none => exact .inl ⟨_, Eq.refl _⟩
    | some l =>
      simp only
      split
      · exact .inl ⟨_, Eq.refl _⟩
      · exact .inr ⟨l, Eq.refl _, Eq.refl _⟩

/-- A send from call to end or to its wait for the token (R189): an answer with bytes on the wire, or a send in progress. -/
theorem send_cases (role : Role) (d : Draft) (s : State) :
    (∃ bytes r, send role d s = { s with
      nextSend := s.nextSend + 1, tx := s.tx ++ bytes, out := s.out ++ [.sent s.nextSend r] }) ∨
    (∃ bytes, s.sendToken = .held ∧ send role d s = { s with
      nextSend := s.nextSend + 1, sends := s.sends ++ [⟨s.nextSend, bytes, .acquire⟩] }) := by
  unfold send
  cases d.construct with
  | none => exact .inl ⟨[], .constructionError, by simp [output]⟩
  | some p =>
    simp only
    split
    · split
      · exact .inl ⟨_, _, Eq.refl _⟩
      · next h => exact .inr ⟨_, by cases ht : s.sendToken <;> simp_all, Eq.refl _⟩
    · exact .inl ⟨[], .refused, by simp [output]⟩

/-- `wait_notifier` on its own (R154): a count is taken, or the limit answers, or the caller is blocked. -/
theorem waitNotifier_cases (l : Limit) (s : State) :
    ∃ n, (0 < s.notifyCount ∧ waitNotifier l s = { s with
        notifyCount := s.notifyCount - 1, nextCall := s.nextCall + 1, choices := n
        out := s.out ++ [.waited s.nextCall .woken] }) ∨
      (ended l s = true ∧ waitNotifier l s = { s with
        nextCall := s.nextCall + 1, choices := n, out := s.out ++ [.waited s.nextCall l.waitCode] }) ∨
      (s.notifyCount = 0 ∧ ended l s = false ∧ waitNotifier l s = { s with
        nextCall := s.nextCall + 1, choices := n
        calls := s.calls ++ [⟨s.nextCall, .wait, some l, .waiting⟩] }) := by
  unfold waitNotifier
  by_cases hc : 0 < s.notifyCount
  · by_cases he : ended l s = true
    · cases hw : Config.takesWake s.choices
      · exact ⟨s.choices + 1, .inr (.inl ⟨he, by simp [hc, he, output]⟩)⟩
      · exact ⟨s.choices + 1, .inl ⟨hc, by simp [hc, he, output, takeCount]⟩⟩
    · exact ⟨s.choices, .inl ⟨hc, by simp [hc, he, output, takeCount]⟩⟩
  · by_cases he : ended l s = true
    · exact ⟨s.choices, .inr (.inl ⟨he, by simp [hc, he, output]⟩)⟩
    · exact ⟨s.choices, .inr (.inr ⟨by omega, by simpa using he, by simp [hc, he]⟩)⟩

/-- A step with an event on the agenda performs it; with none, the reader moves (R8, R215). -/
theorem step_cons {s : State} {e : Event} {rest : List Event} (h : s.agenda = e :: rest) :
    step s = perform e { s with agenda := rest } := by simp [step, moveNext, h]

theorem step_idle {s : State} (h : s.agenda = []) : step s = readerStep s := by simp [step, moveNext, h]

/-- What the reader's step can do when it answers a next state (R233): change its own place and the input stream, or run
the instruction the next byte selects. -/
theorem readerStep_next {s s' : State} (h : readerStep s = .next s') :
    (∃ r x, s' = { s with reader := r, rx := x }) ∨
    (∃ b left t, s.reader = .feeding (b :: left) ∧ selectTrans s.par s.parser b = some t ∧
      exec (transInstr t b) s = .next s') := by
  unfold readerStep at h
  cases hr : s.reader with
  | between => rw [hr] at h; cases h; exact .inl ⟨_, s.rx, Eq.refl _⟩
  | reading =>
    rw [hr] at h
    cases h
    unfold readReturns
    split
    · exact .inl ⟨_, s.rx, Eq.refl _⟩
    · exact .inl ⟨_, _, Eq.refl _⟩
  | halted => rw [hr] at h; cases h; exact .inl ⟨s.reader, s.rx, Eq.refl _⟩
  | feeding l =>
    rw [hr] at h
    cases l with
    | nil => cases h; exact .inl ⟨_, s.rx, Eq.refl _⟩
    | cons b left =>
      simp only [feedByte] at h
      split at h
      · next t ht => exact .inr ⟨b, left, t, Eq.refl _, ht, h⟩
      · cases h

end Sys2Proof.Machine
end

