-- ==== Sys2Proof/Laws/Calls.lean ====
section
/-!
SUPPORT. What each atomic step of a call or a send in progress can do, said once (43_queue.md R153 to R161;
44_encoder_send.md R189).
-/

namespace Sys2Proof.Machine

theorem findCall_some {id : Nat} {s : State} {c : Call} (h : findCall id s = some c) : c ∈ s.calls ∧ c.id = id :=
  ⟨List.mem_of_find?_eq_some h, by simpa using List.find?_some h⟩

theorem findSend_some {id : Nat} {s : State} {x : Send} (h : findSend id s = some x) : x ∈ s.sends ∧ x.id = id :=
  ⟨List.mem_of_find?_eq_some h, by simpa using List.find?_some h⟩

/-- One turn of a receive's loop: the head ends it or is discarded; an empty queue ends an attempt and blocks the others. -/
theorem receiveStep_cases (id : Nat) (role : Role) (limit : Option Limit) (s : State) :
    (∃ p q, s.q = p :: q ∧ role.accepts p = true ∧
      receiveStep id role limit s = endReceive id (.ok p) { s with q := q }) ∨
    (∃ p q, s.q = p :: q ∧ role.accepts p = false ∧ receiveStep id role limit s = { s with q := q }) ∨
    (s.q = [] ∧ limit = none ∧ receiveStep id role limit s = endReceive id .none s) ∨
    (∃ l, s.q = [] ∧ limit = some l ∧ receiveStep id role limit s = setCallPhase id .waiting s) := by
  unfold receiveStep tryDequeue
  cases s.q with
  | nil =>
    cases limit with
    | none => exact .inr (.inr (.inl ⟨Eq.refl _, Eq.refl _, Eq.refl _⟩))
    | some l => exact .inr (.inr (.inr ⟨l, Eq.refl _, Eq.refl _, Eq.refl _⟩))
  | cons p q =>
    cases ha : role.accepts p
    · exact .inr (.inl ⟨p, q, Eq.refl _, ha, by simp [ha]⟩)
    · exact .inl ⟨p, q, Eq.refl _, ha, by simp [ha]⟩

/-- A call that is not blocked takes one turn of its loop; any other number names no step. -/
theorem callStep_cases (id : Nat) (s : State) :
    (∃ role limit, findCall id s = some ⟨id, .receive role, limit, .ready⟩ ∧
      callStep id s = receiveStep id role limit s) ∨ callStep id s = s := by
  unfold callStep
  split
  · next i role limit h => obtain rfl := (findCall_some h).2; exact .inl ⟨role, limit, h, Eq.refl _⟩
  · exact .inr (Eq.refl _)

/-- WAKE takes one count: a receive goes round again, a wait on its own returns (R154). -/
theorem wake_cases (id : Nat) (s : State) :
    (∃ role limit, 0 < s.notifyCount ∧ findCall id s = some ⟨id, .receive role, limit, .waiting⟩ ∧
      wake id s = setCallPhase id .ready (takeCount s)) ∨
    (∃ limit, 0 < s.notifyCount ∧ findCall id s = some ⟨id, .wait, limit, .waiting⟩ ∧
      wake id s = endWait id .woken (takeCount s)) ∨ wake id s = s := by
  unfold wake
  split
  · next hc =>
    split
    · next i role limit h => obtain rfl := (findCall_some h).2; exact .inl ⟨role, limit, hc, h, Eq.refl _⟩
    · next i limit h => obtain rfl := (findCall_some h).2; exact .inr (.inl ⟨limit, hc, h, Eq.refl _⟩)
    · exact .inr (.inr (Eq.refl _))
  · exact .inr (.inr (Eq.refl _))

theorem endByLimit_cases (id : Nat) (kind : CallKind) (l : Limit) (s : State) :
    (ended l s = true ∧ ∃ o, endByLimit id kind l s = output o (dropCall id s)) ∨ endByLimit id kind l s = s := by
  unfold endByLimit
  split
  · next he => cases kind <;> exact .inl ⟨he, _, Eq.refl _⟩
  · exact .inr (Eq.refl _)

/-- EXPIRE ends a blocked call whose deadline has passed, and does nothing else (R154, R218). -/
theorem expire_cases (id : Nat) (s : State) :
    (∃ kind t, findCall id s = some ⟨id, kind, some (.deadline t), .waiting⟩ ∧ t ≤ s.now ∧
      ∃ o, expire id s = output o (dropCall id s)) ∨ expire id s = s := by
  unfold expire
  split
  · next i kind t h =>
    obtain rfl := (findCall_some h).2
    obtain ⟨he, o, ho⟩ | ho := endByLimit_cases i kind (.deadline t) s
    · exact .inl ⟨kind, t, h, by simpa [ended] using he, o, ho⟩
    · exact .inr ho
  · exact .inr (Eq.refl _)

/-- ABORT ends a blocked call whose signal has fired, and does nothing else (R154, R157). -/
theorem abort_cases (id : Nat) (s : State) :
    (∃ kind sig, findCall id s = some ⟨id, kind, some (.cancel sig), .waiting⟩ ∧ sig ∈ s.fired ∧
      ∃ o, abort id s = output o (dropCall id s)) ∨ abort id s = s := by
  unfold abort
  split
  · next i kind sig h =>
    obtain rfl := (findCall_some h).2
    obtain ⟨he, o, ho⟩ | ho := endByLimit_cases i kind (.cancel sig) s
    · exact .inl ⟨kind, sig, h, by simpa [ended] using he, o, ho⟩
    · exact .inr ho
  · exact .inr (Eq.refl _)

/-- A send called step by step: an answer at once, or a send in progress that is about to acquire the token. -/
theorem startSend_cases (role : Role) (d : Draft) (s : State) :
    (∃ r, startSend role d s = output (.sent s.nextSend r) { s with nextSend := s.nextSend + 1 }) ∨
    (∃ p, d.construct = some p ∧ role.maySend p = true ∧ startSend role d s = { s with
      nextSend := s.nextSend + 1, sends := s.sends ++ [⟨s.nextSend, encodePacket s.par p, .acquire⟩] }) := by
  unfold startSend
  cases d.construct with
  | none => exact .inl ⟨_, Eq.refl _⟩
  | some p =>
    simp only
    split
    · next h => exact .inr ⟨p, Eq.refl _, h, Eq.refl _⟩
    · exact .inl ⟨_, Eq.refl _⟩

/-- The next line of a send: the token taken, bytes written, or the token released and the result given (R189). -/
theorem sendStep_cases (id : Nat) (s : State) :
    (∃ bytes, findSend id s = some ⟨id, bytes, .acquire⟩ ∧ s.sendToken = .free ∧
      sendStep id s = setSendPhase id .write { s with sendToken := .held }) ∨
    (∃ bytes, findSend id s = some ⟨id, bytes, .write⟩ ∧
      sendStep id s = setSendPhase id (.release (wireWrite bytes s).2) { s with tx := s.tx ++ (wireWrite bytes s).1 }) ∨
    (∃ bytes r, findSend id s = some ⟨id, bytes, .release r⟩ ∧
      sendStep id s = output (.sent id r)
        { s with sendToken := .free, sends := s.sends.filter (fun x => x.id != id) }) ∨
    sendStep id s = s := by
  unfold sendStep
  split
  · next i bytes h =>
    obtain rfl := (findSend_some h).2
    split
    · next hf => exact .inl ⟨bytes, h, hf, Eq.refl _⟩
    · exact .inr (.inr (.inr (Eq.refl _)))
  · next i bytes h => obtain rfl := (findSend_some h).2; exact .inr (.inl ⟨bytes, h, Eq.refl _⟩)
  · next i bytes r h => obtain rfl := (findSend_some h).2; exact .inr (.inr (.inl ⟨bytes, r, h, Eq.refl _⟩))
  · exact .inr (.inr (.inr (Eq.refl _)))

end Sys2Proof.Machine
end

