-- ==== Sys2Proof/Laws/Parser.lean ====
section
/-!
SUPPORT. The header as a list, the payload counters as numbers, and that the parser and what it shares with the consumers
take no notice of anything else in the state (R10).
-/

namespace Sys2Proof.Machine

theorem Parser.hdr_toList (p : Parser) : p.hdr.toList = [p.hdr[0], p.hdr[1], p.hdr[2], p.hdr[3]] := by
  obtain ⟨⟨l⟩, hl⟩ := p.hdr
  match l, hl with
  | [a, b, c, d], _ => exact Eq.refl _

/-- The header check covers the four header bytes in order (R95 (a)). -/
theorem Parser.headerCrc_eq (par : Params) (p : Parser) :
    p.headerCrc par = crc8 par [p.hdr[0], p.hdr[1], p.hdr[2], p.hdr[3]] := by
  rw [Parser.headerCrc, Parser.hdr_toList]

/-- Counting a payload byte takes one from `remaining` where there is one to take. -/
theorem toNat_sub_one {n : BitVec 7} (h : 1 ≤ n.toNat) : (n - 1).toNat = n.toNat - 1 := by
  have hl := n.isLt
  have h1 : (1 : BitVec 7).toNat = 1 := by decide
  rw [BitVec.toNat_sub, h1]
  omega

/-- A parser that meets R30 can take a byte in every state (R123). -/
theorem Parser.Inv.live {p : Parser} (h : p.Inv) : p.live = true := by
  unfold Parser.live
  by_cases e : p.st = .waitExtraData
  · obtain ⟨h1, h2, -, -⟩ := h.counting e
    have hn : p.remaining ≠ 0 := fun k => absurd h1 (by rw [k]; decide)
    rw [bne_iff_ne.mpr hn, decide_eq_true h2]
    exact Bool.or_true _
  · simp [e]

/-- A returned parser meets R30, whatever it was before (R122). -/
theorem Parser.returnToSearch_inv (p : Parser) : p.returnToSearch.Inv where
  sync h := absurd (Eq.refl _) h
  candidate := Eq.refl _
  counting h := nomatch h
  counted h := by simp [Parser.returnToSearch] at h
  short h := nomatch h
  long h := by simp [Parser.returnToSearch] at h

/-- `u` with the write domain's state and the shared state of `s` (R10). -/
def State.onto (s u : State) : State :=
  { u with parser := s.parser, q := s.q, notifyCount := s.notifyCount, overflow := s.overflow }

theorem enqueue_onto (p : Packet) {s u : State} (h : u.par = s.par) : enqueue p (s.onto u) = (enqueue p s).onto u := by
  unfold enqueue State.onto
  simp only [h]
  split
  · simp only [signal]
  · exact Eq.refl _

theorem emit_onto (a f : Byte) (pl : Payload) {s u : State} (h : u.par = s.par) :
    emit a f pl (s.onto u) = (emit a f pl s).onto u := by
  unfold emit
  split
  · exact enqueue_onto _ h
  · exact Eq.refl _

theorem complete_onto (pl : Payload) {s u : State} (h : u.par = s.par) :
    complete pl (s.onto u) = (complete pl s).onto u :=
  congrArg (onParser Parser.returnToSearch) (emit_onto _ _ pl h)

/-- A transition does to the write domain and the shared state what it does, whatever the rest of the state is. -/
theorem applyTrans_onto (t : Trans) (b : Byte) {s u : State} (h : u.par = s.par) :
    applyTrans t b (s.onto u) = (applyTrans t b s).onto u := by
  cases t <;> first
    | exact Eq.refl _
    | exact complete_onto _ h

/-- So does a byte. -/
theorem parseByte_onto (b : Byte) {s u : State} (h : u.par = s.par) :
    parseByte (s.onto u) b = (parseByte s b).onto u := by
  have e : selectTrans (s.onto u).par (s.onto u).parser b = selectTrans s.par s.parser b :=
    congrArg (selectTrans · s.parser b) h
  unfold parseByte
  rw [e]
  split
  · exact applyTrans_onto _ b h
  · exact Eq.refl _

end Sys2Proof.Machine
end

