-- ==== Sys2Proof/Laws/PerInstr.lean ====
section
/-!
SUPPORT. Statements about every instruction as syntax, one lemma per constructor. `EncodedLength`: the bytes an
instruction stands for are at least 1 and at most 134, the longest frame (30_encoding.md R60, R67).
-/

namespace Sys2Proof.Laws.EncodedLength

/-- What the wire carries for an instruction has 1 to 134 bytes, whatever the parameters (R67). -/
def Statement (i : Instr) : Prop :=
  ∀ (par : Params) (bytes : List Byte), i.encode par = some bytes → 1 ≤ bytes.length ∧ bytes.length ≤ 134

theorem of_one {bytes : List Byte} {b : Byte} (h : some [b] = some bytes) :
    1 ≤ bytes.length ∧ bytes.length ≤ 134 := by
  cases h
  simp

theorem of_payload {bytes : List Byte} {c : Option Byte} (h : c.map ([·]) = some bytes) :
    1 ≤ bytes.length ∧ bytes.length ≤ 134 := by
  cases c with
  | none => cases h
  | some b => cases h; simp

@[simp] theorem length_headerBytes (par : Params) (h : Head) (e : Bool) (b3 : Byte) :
    (headerBytes par h e b3).length = 5 := rfl

theorem frameEmb (h : Head) (datum : Byte) : Statement (.frameEmb h datum) := by
  intro par bytes he
  cases he
  simp [embBytes]

theorem frameEmpty (h : Head) (s : Bool) : Statement (.frameEmpty h s) := by
  intro par bytes he
  cases he
  simp [emptyBytes]

theorem frameCrc8 (h : Head) (payload : Payload) (sum : Byte) : Statement (.frameCrc8 h payload sum) := by
  intro par bytes he
  cases he
  have hl := payload.property
  simp only [crc8Bytes, List.length_append, length_headerBytes, List.length_cons, List.length_nil]
  omega

theorem frameCrc16 (h : Head) (payload : Payload) (sum : Word16) : Statement (.frameCrc16 h payload sum) := by
  intro par bytes he
  cases he
  have hl := payload.property
  simp only [crc16Bytes, List.length_append, length_headerBytes, List.length_cons, List.length_nil]
  omega

theorem pktCustomRequest (rec : FrameRecord) : Statement (.pktCustomRequest rec) :=
  fun _ _ h => of_one h

theorem pktCustomReply (rec : FrameRecord) : Statement (.pktCustomReply rec) :=
  fun _ _ h => of_one h

theorem pktSystemRequest (rec : FrameRecord) : Statement (.pktSystemRequest rec) :=
  fun _ _ h => of_one h

theorem pktSystemReport (rec : FrameRecord) : Statement (.pktSystemReport rec) :=
  fun _ _ h => of_one h

theorem subPing (p : Packet) : Statement (.subPing p) :=
  fun _ _ h => of_payload h

theorem subReboot (p : Packet) : Statement (.subReboot p) :=
  fun _ _ h => of_payload h

theorem subBlinkOn (p : Packet) : Statement (.subBlinkOn p) :=
  fun _ _ h => of_payload h

theorem subBlinkOff (p : Packet) : Statement (.subBlinkOff p) :=
  fun _ _ h => of_payload h

theorem subFwUpgrade (p : Packet) : Statement (.subFwUpgrade p) :=
  fun _ _ h => of_payload h

theorem subSysUnknown (p : Packet) : Statement (.subSysUnknown p) :=
  fun _ _ h => of_payload h

theorem subDupAddr (p : Packet) : Statement (.subDupAddr p) :=
  fun _ _ h => nomatch h

theorem subErrCode (p : Packet) : Statement (.subErrCode p) :=
  fun _ _ h => of_payload h

theorem tSearchSkip (b : Byte) : Statement (.tSearchSkip b) :=
  fun _ _ h => of_one h

theorem tSearchSync : Statement (.tSearchSync) :=
  fun _ _ h => of_one h

theorem tAddr (b : Byte) : Statement (.tAddr b) :=
  fun _ _ h => of_one h

theorem tCmd (b : Byte) : Statement (.tCmd b) :=
  fun _ _ h => of_one h

theorem tLen (b : Byte) : Statement (.tLen b) :=
  fun _ _ h => of_one h

theorem tHcrcOkEmb (b : Byte) : Statement (.tHcrcOkEmb b) :=
  fun _ _ h => of_one h

theorem tHcrcOkEmpty (b : Byte) : Statement (.tHcrcOkEmpty b) :=
  fun _ _ h => of_one h

theorem tHcrcOkData (b : Byte) : Statement (.tHcrcOkData b) :=
  fun _ _ h => of_one h

theorem tHcrcBadNoroll (b : Byte) : Statement (.tHcrcBadNoroll b) :=
  fun _ _ h => of_one h

theorem tHcrcBadRollback (b : Byte) : Statement (.tHcrcBadRollback b) :=
  fun _ _ h => of_one h

theorem tDataMore (b : Byte) : Statement (.tDataMore b) :=
  fun _ _ h => of_one h

theorem tDataLast8 (b : Byte) : Statement (.tDataLast8 b) :=
  fun _ _ h => of_one h

theorem tDataLast16 (b : Byte) : Statement (.tDataLast16 b) :=
  fun _ _ h => of_one h

theorem tPcrc8Ok (b : Byte) : Statement (.tPcrc8Ok b) :=
  fun _ _ h => of_one h

theorem tPcrc8Bad (b : Byte) : Statement (.tPcrc8Bad b) :=
  fun _ _ h => of_one h

theorem tPcrc16a (b : Byte) : Statement (.tPcrc16a b) :=
  fun _ _ h => of_one h

theorem tPcrc16bOk (b : Byte) : Statement (.tPcrc16bOk b) :=
  fun _ _ h => of_one h

theorem tPcrc16bBad (b : Byte) : Statement (.tPcrc16bBad b) :=
  fun _ _ h => of_one h

theorem fnCrc8 (bytes : List Byte) : Statement (.fnCrc8 bytes) :=
  fun _ _ h => nomatch h

theorem fnCrc16 (bytes : List Byte) : Statement (.fnCrc16 bytes) :=
  fun _ _ h => nomatch h

theorem fnRev8 (b : Byte) : Statement (.fnRev8 b) :=
  fun _ _ h => nomatch h

theorem fnRev16 (v : Word16) : Statement (.fnRev16 v) :=
  fun _ _ h => nomatch h

theorem fnEmit (addr flags : Byte) (payload : Payload) : Statement (.fnEmit addr flags payload) :=
  fun _ _ h => nomatch h

theorem fnReturnToSearch : Statement (.fnReturnToSearch) :=
  fun _ _ h => nomatch h

theorem fnClassify (rec : FrameRecord) : Statement (.fnClassify rec) :=
  fun _ _ h => nomatch h

theorem encEmb (p : Packet) : Statement (.encEmb p) :=
  fun _ _ h => nomatch h

theorem encEmpty (p : Packet) : Statement (.encEmpty p) :=
  fun _ _ h => nomatch h

theorem encCrc8 (p : Packet) : Statement (.encCrc8 p) :=
  fun _ _ h => nomatch h

theorem encCrc16 (p : Packet) : Statement (.encCrc16 p) :=
  fun _ _ h => nomatch h

theorem tryRecvMonitor : Statement (.tryRecvMonitor) :=
  fun _ _ h => nomatch h

theorem recvMonitor (timeout : Timeout) : Statement (.recvMonitor timeout) :=
  fun _ _ h => nomatch h

theorem recvcMonitor (sig : Nat) : Statement (.recvcMonitor sig) :=
  fun _ _ h => nomatch h

theorem recvHost (timeout : Timeout) : Statement (.recvHost timeout) :=
  fun _ _ h => nomatch h

theorem recvcHost (sig : Nat) : Statement (.recvcHost sig) :=
  fun _ _ h => nomatch h

theorem recvDevice (timeout : Timeout) : Statement (.recvDevice timeout) :=
  fun _ _ h => nomatch h

theorem recvcDevice (sig : Nat) : Statement (.recvcDevice sig) :=
  fun _ _ h => nomatch h

theorem tryRecvHost : Statement (.tryRecvHost) :=
  fun _ _ h => nomatch h

theorem tryRecvDevice : Statement (.tryRecvDevice) :=
  fun _ _ h => nomatch h

theorem trySend (role : Role) (d : Draft) : Statement (.trySend role d) :=
  fun _ _ h => nomatch h

theorem shutdown : Statement (.shutdown) :=
  fun _ _ h => nomatch h

theorem enqueue (p : Packet) : Statement (.enqueue p) :=
  fun _ _ h => nomatch h

theorem overflowDrop (p : Packet) : Statement (.overflowDrop p) :=
  fun _ _ h => nomatch h

theorem signal : Statement (.signal) :=
  fun _ _ h => nomatch h

theorem tryDequeue : Statement (.tryDequeue) :=
  fun _ _ h => nomatch h

theorem waitNotifier (limit : Limit) : Statement (.waitNotifier limit) :=
  fun _ _ h => nomatch h

end Sys2Proof.Laws.EncodedLength
end

