-- ==== Sys2Proof/Laws/Step.lean ====
section
/-!
SUPPORT. Everything a step can do when it answers a next state, said once: a proof about every step is a proof for each
case here.
-/

namespace Sys2Proof.Machine

/-- A value that is not what a receive ends with. -/
def Output.Plain (o : Output) : Prop := ∀ id r, o ≠ .received id r

/-- What an instruction that is a step of some agent can do to the state. -/
inductive Effect (s : State) : State → Prop where
  | frame (bytes : List Byte) (hf : readerFree s = true) (h : s.parser.live = true) : Effect s (parseBytes bytes { s with reader := .between })
  | transition (tr : Trans) (b : Byte) (r : Reader) (hb : Takes s b) (h : selectTrans s.par s.parser b = some tr) :
      Effect s (applyTrans tr b { s with reader := r })
  | arrived (bytes : List Byte) : Effect s (arrive bytes s)
  | answer (o : Output) (h : o.Plain) : Effect s (output o s)
  | received (role : Role) (limit : Option Limit) : Effect s (receive role limit s)
  | sent (role : Role) (d : Draft) : Effect s (send role d s)
  | stopped : Effect s (beginShutdown s)
  | dequeued : Effect s (output (.dequeued (tryDequeue s).1) (tryDequeue s).2)

/-- An operation on a Packet that hands back one value hands back one value. -/
theorem Effect.of_value {p : Packet} {g : State → Output} {s t : State} (hg : (g s).Plain)
    (h : withPacket p (fun s => .next (output (g s) s)) s = .next t) : Effect s t := by
  obtain ⟨-, h⟩ | ⟨-, h⟩ := withPacket_next.mp h
  · cases h; exact .answer _ hg
  · exact h ▸ .answer _ (by intro _ _ h; cases h)

theorem Effect.of_action {p : Packet} {s t : State} (h : decodeAction p s = .next t) : Effect s t :=
  Effect.of_value (by split <;> intro _ _ h <;> cases h) h

theorem Effect.of_attribute {f : Packet → Output} {p : Packet} {s t : State} (hf : (f p).Plain)
    (h : reportAttribute f p s = .next t) : Effect s t :=
  Effect.of_value (by split; exacts [hf, by intro _ _ h; cases h]) h

theorem Effect.of_encoder {p : Packet} {s t : State} (h : encodeOperand p s = .next t) : Effect s t :=
  Effect.of_value (by intro _ _ h; cases h) h

theorem Effect.of_frame {bytes : List Byte} {s t : State} (h : receiveFrame bytes s = .next t) : Effect s t := by
  obtain ⟨hf, hl, rfl⟩ | rfl := receiveFrame_next h
  · exact .frame bytes hf hl
  · exact .arrived bytes

theorem Effect.of_transition {tr : Trans} {b : Byte} {s t : State} (h : takeTransition tr b s = .next t) :
    Effect s t := by
  obtain ⟨hb, u, r, hu, rfl⟩ | rfl := takeTransition_next h
  · exact .transition u b r hb hu
  · exact .arrived [b]

/-- Every instruction but those made only inside another has one of the effects of `Effect` where it answers a next state. -/
theorem exec_effect {i : Instr} {s t : State} (hi : insideAnother i = false) (h : exec i s = .next t) :
    Effect s t := by
  cases i with
  | frameEmb | frameEmpty | frameCrc8 | frameCrc16 => exact .of_frame h
  | pktCustomRequest | pktCustomReply | pktSystemRequest | pktSystemReport =>
    cases h; exact .answer _ (by intro _ _ h; cases h)
  | subPing | subReboot | subBlinkOn | subBlinkOff | subFwUpgrade | subSysUnknown =>
    exact .of_action h
  | subDupAddr =>
    exact .of_attribute (f := fun p => .duplicateAddress p.duplicateAddress) (by intro _ _ h; cases h) h
  | subErrCode => exact .of_attribute (f := fun p => .errorCode p.errorCode) (by intro _ _ h; cases h) h
  | encEmb | encEmpty | encCrc8 | encCrc16 => exact .of_encoder h
  | tSearchSkip | tSearchSync | tAddr | tCmd | tLen | tHcrcOkEmb | tHcrcOkEmpty | tHcrcOkData | tHcrcBadNoroll
  | tHcrcBadRollback | tDataMore | tDataLast8 | tDataLast16 | tPcrc8Ok | tPcrc8Bad | tPcrc16a | tPcrc16bOk
  | tPcrc16bBad => exact .of_transition h
  | fnCrc8 | fnCrc16 | fnRev8 | fnRev16 | fnClassify =>
    cases h; exact .answer _ (by intro _ _ h; cases h)
  | fnEmit | fnReturnToSearch | enqueue | overflowDrop | signal | waitNotifier => cases hi
  | tryRecvMonitor | recvMonitor | recvcMonitor | recvHost | recvcHost | recvDevice | recvcDevice | tryRecvHost
  | tryRecvDevice => cases h; exact .received _ _
  | trySend => cases h; exact .sent _ _
  | shutdown => cases h; exact .stopped
  | tryDequeue => cases h; exact .dequeued

/-- What an event of the agenda, or the reader's own step, can do to the state. -/
inductive Move (s : State) : State → Prop where
  | run (t : State) (h : Effect s t) : Move s t
  | begun (role : Role) (shape : Shape) : Move s (startReceive role shape s)
  | sendBegun (role : Role) (d : Draft) : Move s (startSend role d s)
  | called (id : Nat) : Move s (callStep id s)
  | woken (id : Nat) : Move s (wake id s)
  | expired (id : Nat) : Move s (expire id s)
  | aborted (id : Nat) : Move s (abort id s)
  | sendLine (id : Nat) : Move s (sendStep id s)
  | readerMoved (r : Reader) (rx : List Byte) : Move s { s with reader := r, rx := rx }
  | fired (sig : Nat) : Move s (fire sig s)
  | elapsed (d : Nat) : Move s { s with now := s.now + d }
  | faulted (f : Option Nat) : Move s { s with writeFault := f }
  | closed : Move s (closeStream s)

/-- The byte of a transition R100 selects is that transition's own: the sync byte where it is the sync byte's row. -/
theorem selectTrans_sync {par : Params} {p : Parser} {b : Byte} (h : selectTrans par p b = some .searchSync) :
    b = Config.sync := by
  unfold selectTrans at h
  split at h
  case h_1 => split at h <;> simp_all
  all_goals (repeat' split at h) <;> simp_all

/-- The next byte of a read, run as any row's instruction that carries it, does what the row R100 selects does, and the
reader's place moves past it. -/
theorem exec_transInstr {tr u : Trans} {b : Byte} {left : List Byte} {s : State}
    (hr : s.reader = .feeding (b :: left)) (hb : tr = .searchSync → b = Config.sync)
    (h : selectTrans s.par s.parser b = some u) :
    exec (transInstr tr b) s = .next (applyTrans u b { s with reader := afterTake left }) := by
  have key : takeTransition tr b s = .next (applyTrans u b { s with reader := afterTake left }) := by
    rw [takeTransition, fetchByte_feeding hr]
    exact parserStep_of_select tr h
  cases tr
  case searchSync => obtain rfl := hb (Eq.refl _); exact key
  all_goals exact key

theorem Move.of_reader {s t : State} (h : readerStep s = .next t) : Move s t := by
  obtain ⟨r, x, rfl⟩ | ⟨b, left, tr, -, -, h⟩ := readerStep_next h
  · exact .readerMoved r x
  · exact .run _ (exec_effect (by cases tr <;> exact Eq.refl _) h)

theorem Move.of_answerRead {f : State → State} {s : State} (hf : ∃ r x, f s = { s with reader := r, rx := x }) :
    Move s (answerRead f s) := by
  obtain ⟨r, x, hf⟩ := hf
  unfold answerRead
  split
  · exact hf ▸ .readerMoved r x
  · exact .readerMoved s.reader s.rx

/-- An operation of the agenda runs, or, where it is made only inside another, has no effect. -/
theorem runOperation_cases (i : Instr) (s : State) :
    (insideAnother i = false ∧ runOperation i s = exec i s) ∨
      (insideAnother i = true ∧ runOperation i s = .next s) := by
  cases h : insideAnother i <;> simp [runOperation, h]

theorem perform_move {e : Event} {s t : State} (h : perform e s = .next t) : Move s t := by
  cases e with
  | op i =>
    obtain ⟨hf, hi⟩ | ⟨-, hi⟩ := runOperation_cases i s
    · exact .run _ (exec_effect hf (hi.symm.trans h))
    · cases hi.symm.trans h; exact .readerMoved s.reader s.rx
  | reader => exact .of_reader h
  | readData n =>
    cases h
    refine .of_answerRead ?_
    unfold readReturns
    split
    · exact ⟨_, s.rx, Eq.refl _⟩
    · exact ⟨_, _, Eq.refl _⟩
  | readTimeout | readError => cases h; exact .of_answerRead ⟨_, s.rx, Eq.refl _⟩
  | arrive bytes => cases h; exact .readerMoved s.reader _
  | startReceive => cases h; exact .begun _ _
  | startSend => cases h; exact .sendBegun _ _
  | callStep => cases h; exact .called _
  | wake => cases h; exact .woken _
  | expire => cases h; exact .expired _
  | abort => cases h; exact .aborted _
  | sendStep => cases h; exact .sendLine _
  | fire => cases h; exact .fired _
  | elapse => cases h; exact .elapsed _
  | setWriteFault => cases h; exact .faulted _
  | closeStream => cases h; exact .closed

/-- Every step is a move, made on the state without the agenda entry it takes. -/
theorem step_move {s t : State} (h : step s = .next t) : ∃ rest, Move { s with agenda := rest } t := by
  cases ha : s.agenda with
  | nil => exact ⟨s.agenda, .of_reader (step_idle ha ▸ h)⟩
  | cons e rest => exact ⟨rest, perform_move (step_cons ha ▸ h)⟩

end Sys2Proof.Machine
end

