-- ==== Sys2Proof/Tests/Slice0.lean ====
section
/-!
SUPPORT. The model's own tests: ill-formed terms, words written out from 30_encoding.md, one step on a small state per
instruction with results from 95_test_vectors.md, and a witness for the hypotheses of every obligation. The tables are the
sample instantiation S of 95_test_vectors.md section 2, never the hardware's own.
-/

open Sys2Proof Sys2Proof.Machine Sys2Proof.Stated

namespace Sys2Proof.Tests

-- One theorem after the other: each concurrent kernel evaluation would hold a thread and its stack.
set_option Elab.async false

/-! ### The sample instantiation S and small states -/

/-- S with `QUEUE_DEPTH = 8` and `NOTIFY_CAP = 4`, as the vectors take them; the action bytes are 1 to 5. -/
def parS : Params where
  t8 := sampleT8
  t16 := sampleT16
  queueDepthLess1 := 7
  notifyCapLess1 := 3
  scratchSizeLess1 := 15
  sysPing := 1
  sysReboot := 2
  sysBlinkOn := 3
  sysBlinkOff := 4
  sysFwUpgrade := 5
  readTimeout := 10
  gracePeriod := 10

/-- The reset state with the parameters S. -/
def base : State := { State.reset with par := parS }

/-- A parser in state `st` with a header and a candidate. -/
def at_ (st : PState) (hdr : Vector Byte 4) (rb : Option Cand := none) : State :=
  { base with parser := { Parser.reset with st := st, hdr := hdr, rb := rb } }

/-- The state in which the reader has the byte `b` to take, and a sync byte after it. -/
def offered (b : Byte) (s : State) : State := { s with reader := .feeding [b, 0xBB] }

/-- A payload from literal bytes. -/
def pl (l : List Byte) : Payload := if h : l.length ≤ 127 then ⟨l, h⟩ else Payload.empty

/-- The payload of family N (3.3): byte `i` is `7 i + 1`. -/
def famN (n : Nat) : Payload := pl ((List.range n).map (fun i => BitVec.ofNat 8 (7 * i + 1)))

/-- A parser with the header of a long frame and part of its payload `01 08 ..` collected. -/
def collecting (st : PState) (b3 : Byte) (len left : BitVec 7) (crcHi : Byte := 0) : State :=
  { base with parser := {
      st := st, hdr := #v[0xBB, 0x09, 0x51, b3], rb := none, paylen := len, remaining := left
      pay := Vector.ofFn (fun i => if i.val < len.toNat - left.toNat then BitVec.ofNat 8 (7 * i.val + 1) else 0)
      crcHi := crcHi } }

def k1 : Packet := ⟨.host, 5, true, 3, pl [0x42]⟩
def k2 : Packet := ⟨.host, 3, false, 1, pl [0x10, 0x20, 0x30]⟩
def k5 : Packet := ⟨.device, 7, true, 0, pl []⟩
/-- The Packet of family N with `n` payload bytes. -/
def v (n : Nat) : Packet := ⟨.device, 9, true, 17, famN n⟩
/-- A system request, and a system report, with the given payload. -/
def sreq (l : List Byte) : Packet := ⟨.host, 1, false, 0, pl l⟩
def srep (l : List Byte) : Packet := ⟨.device, 7, true, 0, pl l⟩
/-- A device-originated Packet with address 0: no Packet at all (R139). -/
def bad : Packet := ⟨.device, 0, false, 3, pl [0x42]⟩

/-- The outcome is a next state that satisfies `f`. -/
def nextIs (o : Host.Outcome State Fault Refusal) (f : State → Bool) : Bool :=
  match o with
  | .next t => f t
  | _ => false

/-- The bytes decode to that frame instruction with nothing left over. -/
def decodesTo (bytes : List Byte) (i : Instr) : Bool :=
  match decodeFrame parS bytes with
  | .ok (j, rest) => decide (j = i) && rest.isEmpty
  | .error _ => false

def rejectedAs (bytes : List Byte) (r : Reject) : Bool :=
  match decodeFrame parS bytes with
  | .ok _ => false
  | .error e => decide (e = r)

/-! ### Well-formedness: one ill-formed term for each check -/

theorem test_wf_refuses :
    [Instr.frameCrc8 ⟨9, .device, true, 17⟩ Payload.empty 0, .frameCrc16 ⟨9, .device, true, 17⟩ Payload.empty 0,
      .pktCustomRequest ⟨5, 0x43, pl []⟩, .pktCustomReply ⟨5, 0xC3, pl []⟩, .pktSystemRequest ⟨5, 0xC3, pl []⟩,
      .pktSystemReport ⟨5, 0x80, pl []⟩, .subPing (sreq [2]), .subReboot (srep [2]), .subBlinkOn bad,
      .subBlinkOff (sreq []), .subFwUpgrade k1, .subSysUnknown (sreq [1]), .subDupAddr (srep [5]), .subErrCode (srep []),
      .tSearchSkip 0xBB, .encEmb (v 2), .encEmpty (v 1), .encCrc8 (v 13), .encCrc8 (v 1), .encCrc16 (v 12), .enqueue bad,
      .overflowDrop bad].all (fun i => !i.wf parS) = true := by decide

theorem test_wf_accepts :
    [Instr.frameCrc8 ⟨9, .device, true, 17⟩ (pl [1]) 0, .pktCustomRequest ⟨5, 0xE3, pl []⟩, .subPing (sreq [1]),
      .subDupAddr (srep []), .subErrCode (srep [5]), .tSearchSkip 0xBA, .encCrc8 (v 12), .encCrc16 (v 13),
      .enqueue k1].all (fun i => i.wf parS) = true := by decide

/-! ### Decoding: words written out from the encoding (30_encoding.md R61 to R69) -/

/-- The check values of 95 section 2. -/
theorem test_crc_check_values :
    crc8 parS [0x31, 0x32, 0x33, 0x34, 0x35, 0x36, 0x37, 0x38, 0x39] = 0x20 ∧
    crc16 parS [0x31, 0x32, 0x33, 0x34, 0x35, 0x36, 0x37, 0x38, 0x39] = 0x31C3 ∧
    crc8 parS [0x01] = 0x91 ∧ crc16 parS [0x01] = 0x1021 := by decide +kernel

/-- The first and the last entries of the tables of S (R97). -/
theorem test_sample_tables :
    sampleT8.toList.take 8 = [0x00, 0x07, 0x0E, 0x09, 0x1C, 0x1B, 0x12, 0x15] ∧ sampleT8[255] = 0xF3 ∧
    sampleT16.toList.take 4 = [0x0000, 0x1189, 0x2312, 0x329B] ∧ sampleT16[255] = 0x0F78 := by decide +kernel

/-- `BB 05 | 1 1 1 00011 | 42 | 2C` (K1). -/
theorem test_decode_emb : decodesTo [0xBB, 0x05, 0xE3, 0x42, 0x2C] (.frameEmb ⟨5, .host, true, 3⟩ 0x42) = true := by
  decide +kernel

/-- `BB 09 | 0 1 0 10001 | 0 0000000 | 75` (V0), and with the CRC-size bit `BB 09 51 80 95` (P10c). -/
theorem test_decode_empty :
    decodesTo [0xBB, 0x09, 0x51, 0x00, 0x75] (.frameEmpty ⟨9, .device, true, 17⟩ false) = true ∧
    decodesTo [0xBB, 0x09, 0x51, 0x80, 0x95] (.frameEmpty ⟨9, .device, true, 17⟩ true) = true := by decide +kernel

/-- `BB 09 | 0 1 0 10001 | 0 0000010 | 96 | 01 08 | 63` (V2). -/
theorem test_decode_crc8 :
    decodesTo [0xBB, 0x09, 0x51, 0x02, 0x96, 0x01, 0x08, 0x63]
      (.frameCrc8 ⟨9, .device, true, 17⟩ (pl [0x01, 0x08]) 0x63) = true := by decide +kernel

/-- `BB 09 | 0 1 0 10001 | 1 0000010 | 76 | 01 08 | B2 39` (P10b): the first CRC-16 byte is the high one. -/
theorem test_decode_crc16 :
    decodesTo [0xBB, 0x09, 0x51, 0x82, 0x76, 0x01, 0x08, 0xB2, 0x39]
      (.frameCrc16 ⟨9, .device, true, 17⟩ (pl [0x01, 0x08]) 0xB239) = true := by decide +kernel

theorem test_decode_rejects :
    rejectedAs [0x05, 0xE3] .noSync = true ∧ rejectedAs [0xBB, 0x05, 0xE3, 0x42, 0x2D] .headerCrc = true ∧
    rejectedAs [0xBB, 0x09, 0x51, 0x02, 0x96, 0x01, 0x08] .truncated = true ∧
    rejectedAs [0xBB, 0x09, 0x51, 0x82, 0x76, 0x01, 0x08, 0xB2] .truncated = true := by decide +kernel

/-- Table words: `1reccccc` with `r = 0, e = 1, c = 31`; `0reccccc` with `c = 1`; `1re00000`; `0re00000`; the sync byte. -/
theorem test_decode_kind_words :
    decodeTableWord 8 0xBF = some (.pktCustomRequest ⟨0, 0xBF, Payload.empty⟩) ∧
    decodeTableWord 8 0x01 = some (.pktCustomReply ⟨0, 0x01, Payload.empty⟩) ∧
    decodeTableWord 8 0xE0 = some (.pktSystemRequest ⟨0, 0xE0, Payload.empty⟩) ∧
    decodeTableWord 8 0x00 = some (.pktSystemReport ⟨0, 0x00, Payload.empty⟩) ∧
    decodeTableWord 8 0xBB = some .tSearchSync ∧ decodeTableWord 32 0 = none := by decide

/-- The table's frame words run as the first instruction after reset, whatever the tables are. -/
theorem test_table_words_run :
    nextIs (step (State.reset.withFetchWord 16 0x2042)) (fun _ => true) = true ∧
    nextIs (step (State.reset.withFetchWord 16 0x0081)) (fun _ => true) = true ∧
    nextIs (step (State.reset.withFetchWord 8 0x80)) (fun t => t.out.length = 1) = true ∧
    nextIs (step (State.reset.withFetchWord 8 0xBB)) (fun t => t.parser.st = .waitAddress) = true := by decide

/-! ### Which transition a byte selects (R100), from the traces P1 to P14 -/

theorem test_select_header_states :
    selectTrans parS Parser.reset 0x42 = some .searchSkip ∧ selectTrans parS Parser.reset 0xBB = some .searchSync ∧
    selectTrans parS (at_ .waitAddress #v[0xBB, 0, 0, 0]).parser 0x05 = some .addr ∧
    selectTrans parS (at_ .waitCommand #v[0xBB, 5, 0, 0]).parser 0xE3 = some .cmd ∧
    selectTrans parS (at_ .waitDataLength #v[0xBB, 5, 0xE3, 0]).parser 0x42 = some .len ∧
    selectTrans parS (at_ .waitHeaderCrc8 #v[0xBB, 5, 0xE3, 0x42]).parser 0x2C = some .hcrcOkEmb ∧
    selectTrans parS (at_ .waitHeaderCrc8 #v[0xBB, 9, 0x51, 0x00]).parser 0x75 = some .hcrcOkEmpty ∧
    selectTrans parS (at_ .waitHeaderCrc8 #v[0xBB, 9, 0x51, 0x02]).parser 0x96 = some .hcrcOkData ∧
    selectTrans parS (at_ .waitHeaderCrc8 #v[0xBB, 1, 2, 3]).parser 0xBB = some .hcrcBadNoroll ∧
    selectTrans parS (at_ .waitHeaderCrc8 #v[0xBB, 0xBB, 5, 0xE3] (some .k1)).parser 0x42 = some .hcrcBadRollback := by
  decide +kernel

theorem test_select_payload_states :
    selectTrans parS (collecting .waitExtraData 0x02 2 2).parser 0x01 = some .dataMore ∧
    selectTrans parS (collecting .waitExtraData 0x02 2 1).parser 0x08 = some .dataLast8 ∧
    selectTrans parS (collecting .waitExtraData 0x8D 13 1).parser 0x55 = some .dataLast16 ∧
    selectTrans parS (collecting .waitExtraDataCrc8 0x02 2 0).parser 0x63 = some .pcrc8Ok ∧
    selectTrans parS (collecting .waitExtraDataCrc8 0x02 2 0).parser 0x62 = some .pcrc8Bad ∧
    selectTrans parS (collecting .waitExtraDataCrc16a 0x8D 13 0).parser 0xBC = some .pcrc16a ∧
    selectTrans parS (collecting .waitExtraDataCrc16b 0x8D 13 0 0xBC).parser 0xAC = some .pcrc16bOk ∧
    selectTrans parS (collecting .waitExtraDataCrc16b 0x8D 13 0 0xBD).parser 0xAC = some .pcrc16bBad := by
  decide +kernel

/-! ### One step of each instruction -/

theorem test_frameEmb : nextIs (exec (.frameEmb ⟨5, .host, true, 3⟩ 0x42) base)
    (fun t => t.q = [k1] && t.notifyCount = 1 && t.parser.st = .searchHeader) = true := by decide +kernel

theorem test_frameEmpty : nextIs (exec (.frameEmpty ⟨7, .device, true, 0⟩ true) base)
    (fun t => t.q = [k5] && t.notifyCount = 1) = true := by decide +kernel

theorem test_frameCrc8 : nextIs (exec (.frameCrc8 ⟨9, .device, true, 17⟩ (pl [0x01, 0x08]) 0x63) base)
    (fun t => t.q = [v 2]) = true := by decide +kernel

/-- P8: one payload byte corrupted. -/
theorem test_frameCrc8_corrupt : nextIs (exec (.frameCrc8 ⟨9, .device, true, 17⟩ (pl [0x01, 0x09]) 0x63) base)
    (fun t => t.q = [] && t.notifyCount = 0 && t.parser.st = .searchHeader) = true := by decide +kernel

/-- V13. -/
theorem test_frameCrc16 : nextIs (exec (.frameCrc16 ⟨9, .device, true, 17⟩ (famN 13) 0xBCAC) base)
    (fun t => t.q = [v 13] && t.parser.crcHi = 0xBC) = true := by decide +kernel

/-- P9b. -/
theorem test_frameCrc16_corrupt : nextIs (exec (.frameCrc16 ⟨9, .device, true, 17⟩ (famN 13) 0xBCAD) base)
    (fun t => t.q = []) = true := by decide +kernel

/-- R169, R234, R235: once the reader has stopped, a frame and a byte wait on the input stream and nothing is enqueued; amid
the bytes of a read a frame waits behind them. -/
theorem test_reader_alone :
    nextIs (exec (.frameEmb ⟨5, .host, true, 3⟩ 0x42) { base with stop := true, reader := .halted })
      (fun t => t.q = [] && t.parser = Parser.reset && t.rx = [0xBB, 0x05, 0xE3, 0x42, 0x2C]) = true ∧
    nextIs (exec .tSearchSync { base with stop := true, reader := .halted })
      (fun t => t.parser = Parser.reset && t.rx = [0xBB]) = true ∧
    nextIs (exec (.frameEmb ⟨5, .host, true, 3⟩ 0x42) (offered 0x09 (at_ .waitAddress #v[0xBB, 0, 0, 0])))
      (fun t => t.q = [] && t.parser.st = .waitAddress && t.reader = .feeding [0x09, 0xBB] && t.rx.length = 5) = true := by
  decide +kernel

/-- R169, R215 (1): the calls inside a parser step are no step of an agent's own; the parser step of the last byte of a frame
makes them. -/
theorem test_calls_inside_parser_step :
    nextIs (step { base with agenda := [.op (.enqueue k1)] })
      (fun t => t.q = [] && t.notifyCount = 0 && t.agenda = [] && t.reader = .between) = true ∧
    nextIs (step { at_ .waitAddress #v[0xBB, 0, 0, 0] with agenda := [.op .fnReturnToSearch], reader := .feeding [0x09] })
      (fun t => t.parser.st = .waitAddress && t.reader = .feeding [0x09]) = true ∧
    nextIs (step { at_ .waitHeaderCrc8 #v[0xBB, 0x05, 0xE3, 0x42] with reader := .feeding [0x2C] })
      (fun t => t.q = [k1] && t.notifyCount = 1 && t.parser.st = .searchHeader && t.reader = .between) = true := by
  decide +kernel

/-- R156, R167: `wait_notifier` is no step of its own. With a frame received and a count pending it takes nothing, and it
blocks nobody. -/
theorem test_wait_inside_receive :
    nextIs (step { base with q := [k1], notifyCount := 1, agenda := [.op (.waitNotifier .forever)] })
      (fun t => t.q = [k1] && t.notifyCount = 1 && t.calls = [] && t.out = []) = true ∧
    nextIs (step { base with agenda := [.op (.waitNotifier .forever)] }) (fun t => t.calls = []) = true := by decide

/-- R100, R123: a byte is the transition its state selects, whichever row names it. -/
theorem test_selected_row :
    nextIs (exec (.tCmd 0x05) (offered 0x05 (at_ .waitAddress #v[0xBB, 0, 0, 0])))
      (fun t => t.parser.st = .waitCommand && t.parser.hdr[1] = 0x05 && t.reader = .feeding [0xBB]) = true ∧
    nextIs (exec (.pktCustomRequest ⟨9, 0x51, pl [0x01, 0x08]⟩) base) (fun t => t.out = [.classified (some (v 2))]) = true ∧
    nextIs (exec (.encEmb (v 0)) base) (fun t => t.out = [.frame [0xBB, 0x09, 0x51, 0x00, 0x75]]) = true ∧
    nextIs (exec (.subPing k1) base) (fun t => t.out = [.noAttribute]) = true := by decide +kernel

/-- 95 section 3.5, PR4 and R140. -/
theorem test_pktCustomRequest :
    nextIs (exec (.pktCustomRequest ⟨5, 0xE3, pl [0x42]⟩) base) (fun t => t.out = [.classified (some k1)]) = true ∧
    nextIs (exec (.pktCustomRequest ⟨0, 0xC3, pl []⟩) base) (fun t => t.out = [.classified none]) = true := by
  decide

theorem test_pktCustomReply :
    nextIs (exec (.pktCustomReply ⟨9, 0x51, pl [0x01, 0x08]⟩) base) (fun t => t.out = [.classified (some (v 2))]) = true ∧
    nextIs (exec (.pktCustomReply ⟨0, 0x43, pl [0x42]⟩) base) (fun t => t.out = [.classified none]) = true := by
  decide

theorem test_pktSystemRequest :
    nextIs (exec (.pktSystemRequest ⟨0, 0xC0, pl []⟩) base)
      (fun t => t.out = [.classified (some ⟨.host, 0, true, 0, pl []⟩)]) = true := by decide

theorem test_pktSystemReport :
    nextIs (exec (.pktSystemReport ⟨7, 0x40, pl []⟩) base) (fun t => t.out = [.classified (some k5)]) = true ∧
    nextIs (exec (.pktSystemReport ⟨0, 0x40, pl []⟩) base) (fun t => t.out = [.classified none]) = true := by
  decide

theorem test_system_actions :
    nextIs (exec (.subPing (sreq [1, 9])) base) (fun t => t.out = [.action .ping]) = true ∧
    nextIs (exec (.subReboot (sreq [2])) base) (fun t => t.out = [.action .reboot]) = true ∧
    nextIs (exec (.subBlinkOn (sreq [3])) base) (fun t => t.out = [.action .blinkOn]) = true ∧
    nextIs (exec (.subBlinkOff (sreq [4])) base) (fun t => t.out = [.action .blinkOff]) = true ∧
    nextIs (exec (.subFwUpgrade (sreq [5])) base) (fun t => t.out = [.action .firmwareUpgrade]) = true ∧
    nextIs (exec (.subSysUnknown (sreq [6])) base) (fun t => t.out = [.action .unknown]) = true ∧
    nextIs (exec (.subSysUnknown (sreq [])) base) (fun t => t.out = [.action .unknown]) = true := by decide

theorem test_report_attributes :
    nextIs (exec (.subDupAddr (srep [])) base) (fun t => t.out = [.duplicateAddress true]) = true ∧
    nextIs (exec (.subDupAddr (srep [5])) base) (fun t => t.out = [.duplicateAddress false]) = true ∧
    nextIs (exec (.subErrCode (srep [5])) base) (fun t => t.out = [.errorCode (some 5)]) = true ∧
    nextIs (exec (.subErrCode (srep [])) base) (fun t => t.out = [.errorCode none]) = true := by decide

/-- P7 and P1: noise, then the header of K1, field by field. -/
theorem test_search_and_header :
    nextIs (exec (.tSearchSkip 0x42) base) (fun t => t.parser = Parser.reset) = true ∧
    nextIs (exec .tSearchSync base) (fun t => t.parser.st = .waitAddress && t.parser.hdr[0] = 0xBB) = true ∧
    nextIs (exec (.tAddr 0x05) (at_ .waitAddress #v[0xBB, 0, 0, 0]))
      (fun t => t.parser.st = .waitCommand && t.parser.hdr[1] = 0x05 && t.parser.rb = none) = true ∧
    nextIs (exec (.tAddr 0xBB) (at_ .waitAddress #v[0xBB, 0, 0, 0])) (fun t => t.parser.rb = some .k1) = true := by
  decide +kernel

/-- P5a, P5b, P11: recording a candidate, and keeping the earliest. -/
theorem test_candidates :
    nextIs (exec (.tCmd 0xBB) (at_ .waitCommand #v[0xBB, 1, 0, 0])) (fun t => t.parser.rb = some .k2) = true ∧
    nextIs (exec (.tCmd 0xBB) (at_ .waitCommand #v[0xBB, 0xBB, 0, 0] (some .k1)))
      (fun t => t.parser.rb = some .k1 && t.parser.st = .waitDataLength) = true ∧
    nextIs (exec (.tLen 0xBB) (at_ .waitDataLength #v[0xBB, 1, 2, 0])) (fun t => t.parser.rb = some .k3) = true ∧
    nextIs (exec (.tLen 0x42) (at_ .waitDataLength #v[0xBB, 5, 0xE3, 0]))
      (fun t => t.parser.hdr = #v[0xBB, 5, 0xE3, 0x42] && t.parser.st = .waitHeaderCrc8) = true := by decide

/-- P1, V0, P2 and P6: a matching header. -/
theorem test_header_match :
    nextIs (exec (.tHcrcOkEmb 0x2C) (at_ .waitHeaderCrc8 #v[0xBB, 5, 0xE3, 0x42])) (fun t => t.q = [k1]) = true ∧
    nextIs (exec (.tHcrcOkEmpty 0x75) (at_ .waitHeaderCrc8 #v[0xBB, 9, 0x51, 0x00])) (fun t => t.q = [v 0]) = true ∧
    nextIs (exec (.tHcrcOkData 0xAE) (at_ .waitHeaderCrc8 #v[0xBB, 5, 0x43, 0x42]))
      (fun t => t.parser.paylen = 66 && t.parser.remaining = 66 && t.parser.st = .waitExtraData && t.q = []) = true := by
  decide +kernel

/-- P5c: the failing byte is consumed, `0xBB` though it is. -/
theorem test_header_mismatch : nextIs (exec (.tHcrcBadNoroll 0xBB) (at_ .waitHeaderCrc8 #v[0xBB, 1, 2, 3]))
    (fun t => t.parser.st = .searchHeader && t.parser.rb = none) = true := by decide +kernel

/-- P4 and the first, third and last rows but one of P14. -/
theorem test_rollback :
    nextIs (exec (.tHcrcBadRollback 0x42) (at_ .waitHeaderCrc8 #v[0xBB, 0xBB, 0x05, 0xE3] (some .k1)))
      (fun t => t.parser.hdr = #v[0xBB, 0x05, 0xE3, 0x42] && t.parser.rb = none && t.parser.st = .waitHeaderCrc8) = true ∧
    nextIs (exec (.tHcrcBadRollback 0x09) (at_ .waitHeaderCrc8 #v[0xBB, 0xBB, 0x07, 0xBB] (some .k1)))
      (fun t => t.parser.hdr = #v[0xBB, 0x07, 0xBB, 0x09] && t.parser.rb = some .k2) = true ∧
    nextIs (exec (.tHcrcBadRollback 0x09) (at_ .waitHeaderCrc8 #v[0xBB, 0x01, 0xBB, 0xBB] (some .k2)))
      (fun t => t.parser.hdr[1] = 0xBB && t.parser.hdr[2] = 0x09 && t.parser.rb = some .k1 &&
        t.parser.st = .waitDataLength) = true ∧
    nextIs (exec (.tHcrcBadRollback 0xBB) (at_ .waitHeaderCrc8 #v[0xBB, 0x01, 0x02, 0xBB] (some .k3)))
      (fun t => t.parser.hdr[1] = 0xBB && t.parser.rb = some .k1 && t.parser.st = .waitCommand) = true := by
  decide +kernel

/-- P2 and P3: payload bytes. -/
theorem test_payload_bytes :
    nextIs (exec (.tDataMore 0x01) (collecting .waitExtraData 0x02 2 2))
      (fun t => t.parser.pay[0] = 0x01 && t.parser.remaining = 1 && t.parser.st = .waitExtraData) = true ∧
    nextIs (exec (.tDataLast8 0x08) (collecting .waitExtraData 0x02 2 1))
      (fun t => t.parser.pay[1] = 0x08 && t.parser.remaining = 0 && t.parser.st = .waitExtraDataCrc8) = true ∧
    nextIs (exec (.tDataLast16 0x73) (collecting .waitExtraData 0xFF 127 1))
      (fun t => t.parser.pay[126] = 0x73 && t.parser.st = .waitExtraDataCrc16a) = true := by decide +kernel

/-- P2, P3, P8, P9: trailing checksums. -/
theorem test_trailing_checksums :
    nextIs (exec (.tPcrc8Ok 0x63) (collecting .waitExtraDataCrc8 0x02 2 0)) (fun t => t.q = [v 2]) = true ∧
    nextIs (exec (.tPcrc8Bad 0x62) (collecting .waitExtraDataCrc8 0x02 2 0))
      (fun t => t.q = [] && t.parser.st = .searchHeader) = true ∧
    nextIs (exec (.tPcrc16a 0xBC) (collecting .waitExtraDataCrc16a 0x8D 13 0))
      (fun t => t.parser.crcHi = 0xBC && t.parser.st = .waitExtraDataCrc16b) = true ∧
    nextIs (exec (.tPcrc16bOk 0xAC) (collecting .waitExtraDataCrc16b 0x8D 13 0 0xBC)) (fun t => t.q = [v 13]) = true ∧
    nextIs (exec (.tPcrc16bBad 0xAC) (collecting .waitExtraDataCrc16b 0x8D 13 0 0xBD))
      (fun t => t.q = [] && t.parser.st = .searchHeader) = true := by decide +kernel

/-- 95 sections 2 and 3.1. -/
theorem test_checksum_functions :
    nextIs (exec (.fnCrc8 [0xBB, 0xBB, 0x05, 0xE3]) base) (fun t => t.out = [.byte 0x73]) = true ∧
    nextIs (exec (.fnCrc16 [0x01, 0x08]) base) (fun t => t.out = [.word 0xB239]) = true ∧
    nextIs (exec (.fnRev8 0xE3) base) (fun t => t.out = [.byte 0xC7]) = true ∧
    nextIs (exec (.fnRev16 0x1234) base) (fun t => t.out = [.word 0x2C48]) = true := by decide +kernel

theorem test_parser_functions :
    nextIs (exec (.fnEmit 0x05 0xE3 (pl [0x42])) base) (fun t => t.q = [k1] && t.notifyCount = 1) = true ∧
    nextIs (exec (.fnEmit 0x00 0xC3 (pl [])) base) (fun t => t.q = [] && t.notifyCount = 0) = true ∧
    nextIs (exec .fnReturnToSearch (at_ .waitHeaderCrc8 #v[0xBB, 0xBB, 5, 6] (some .k1)))
      (fun t => t.parser.st = .searchHeader && t.parser.rb = none && t.parser.hdr = #v[0xBB, 0xBB, 5, 6]) = true ∧
    nextIs (exec (.fnClassify ⟨0xFF, 0x1F, pl []⟩) base)
      (fun t => t.out = [.classified (some ⟨.device, 255, false, 31, pl []⟩)]) = true := by decide

/-- V0, V1, V2, V13. -/
theorem test_encoder :
    nextIs (exec (.encEmpty (v 0)) base) (fun t => t.out = [.frame [0xBB, 0x09, 0x51, 0x00, 0x75]]) = true ∧
    nextIs (exec (.encEmb (v 1)) base) (fun t => t.out = [.frame [0xBB, 0x09, 0x71, 0x01, 0xCE]]) = true ∧
    nextIs (exec (.encCrc8 (v 2)) base)
      (fun t => t.out = [.frame [0xBB, 0x09, 0x51, 0x02, 0x96, 0x01, 0x08, 0x63]]) = true ∧
    nextIs (exec (.encCrc16 (v 13)) base)
      (fun t => t.out = [.frame [0xBB, 0x09, 0x51, 0x8D, 0x0D, 0x01, 0x08, 0x0F, 0x16, 0x1D, 0x24, 0x2B, 0x32, 0x39,
        0x40, 0x47, 0x4E, 0x55, 0xBC, 0xAC]]) = true := by decide +kernel

/-- Q4, Q4b, Q10, Q11, and TRYRECV(Device) of PR3. -/
theorem test_attempts :
    nextIs (exec .tryRecvMonitor { base with q := [k5], notifyCount := 1 })
      (fun t => t.out = [.received 0 (.ok k5)] && t.q = [] && t.notifyCount = 1) = true ∧
    nextIs (exec .tryRecvMonitor { base with notifyCount := 1 })
      (fun t => t.out = [.received 0 .none] && t.notifyCount = 1) = true ∧
    nextIs (exec .tryRecvHost { base with q := [k1] }) (fun t => t.out = [.received 0 .none] && t.q = []) = true ∧
    nextIs (exec .tryRecvHost { base with q := [k1, k5] }) (fun t => t.out = [.received 0 (.ok k5)] && t.q = []) = true ∧
    nextIs (exec .tryRecvDevice { base with q := [v 2, k5, k1] })
      (fun t => t.out = [.received 0 (.ok k1)] && t.q = []) = true := by decide

/-- Q5, Q16, Q8, Q9: timed receives. -/
theorem test_timed_receives :
    nextIs (exec (.recvMonitor (.after 50)) base)
      (fun t => t.out = [] && t.calls = [⟨0, .receive .monitor, some (.deadline 50), .waiting⟩]) = true ∧
    nextIs (exec (.recvMonitor (.after 0)) base) (fun t => t.out = [.received 0 .timeout] && t.calls = []) = true ∧
    nextIs (exec (.recvHost (.after 50)) { base with q := [k1, v 2, k2, k5] })
      (fun t => t.out = [.received 0 (.ok (v 2))] && t.q = [k2, k5]) = true ∧
    nextIs (exec (.recvDevice .infinite) { base with q := [k5, k1, k2] })
      (fun t => t.out = [.received 0 (.ok k1)] && t.q = [k2]) = true := by decide

/-- Q12, Q13: cancellable receives; the queue is looked at first. -/
theorem test_cancellable_receives :
    nextIs (exec (.recvcMonitor 3) { base with q := [k5], fired := [3] })
      (fun t => t.out = [.received 0 (.ok k5)]) = true ∧
    nextIs (exec (.recvcMonitor 3) { base with fired := [3] }) (fun t => t.out = [.received 0 .cancelled]) = true ∧
    nextIs (exec (.recvcHost 3) { base with q := [k1] })
      (fun t => t.q = [] && t.calls = [⟨0, .receive .host, some (.cancel 3), .waiting⟩]) = true ∧
    nextIs (exec (.recvcDevice 3) { base with q := [k5, k1] }) (fun t => t.out = [.received 0 (.ok k1)]) = true := by
  decide

/-- S1, S2, S3, S6. -/
theorem test_trySend :
    nextIs (exec (.trySend .host (.customRequest 5 3 [0x42] true)) base)
      (fun t => t.tx = [0xBB, 0x05, 0xE3, 0x42, 0x2C] && t.sendToken = .free && t.out = [.sent 0 .success]) = true ∧
    nextIs (exec (.trySend .host (.customReply 9 17 [0x01] true)) base)
      (fun t => t.tx = [] && t.out = [.sent 0 .refused]) = true ∧
    nextIs (exec (.trySend .device (.customRequest 5 3 [0x42] true)) base)
      (fun t => t.tx = [] && t.out = [.sent 0 .refused]) = true ∧
    nextIs (exec (.trySend .monitor (.customRequest 5 3 [0x42] true)) { base with writeFault := some 2 })
      (fun t => t.tx = [0xBB, 0x05] && t.sendToken = .free && t.out = [.sent 0 .writeError]) = true ∧
    nextIs (exec (.trySend .monitor (.customRequest 5 3 [0x42] true)) { base with shutdown := .closed })
      (fun t => t.tx = [] && t.out = [.sent 0 .writeError]) = true := by decide +kernel

/-- The last lines of 95 section 3.3: what no constructor accepts. -/
theorem test_construction_errors :
    ([Draft.customRequest 0 3 [] true, .customReply 0 3 [] false, .systemReport 0 [] true, .customRequest 1 0 [] false,
      .customReply 1 32 [] false, .customRequest 256 1 [] false, .systemRequest 1 (List.replicate 128 0) false].all
      (fun d => d.construct.isNone)) = true ∧
    ([Draft.customRequest 0 31 [] false, .systemRequest 0 [] true, .systemReport 255 (List.replicate 127 0) false].all
      (fun d => d.construct.isSome)) = true := by decide +kernel

theorem test_shutdown : nextIs (exec .shutdown { base with now := 7 })
    (fun t => t.stop && t.shutdown = .grace 17 && t.reader = .between) = true := by decide

/-- Q1, Q2, Q3. -/
theorem test_queue_primitives :
    nextIs (exec (.enqueue k5) base) (fun t => t.q = [k5] && t.notifyCount = 1) = true ∧
    nextIs (exec (.enqueue k1) { base with q := [k5], notifyCount := 4 })
      (fun t => t.q = [k5, k1] && t.notifyCount = 4) = true ∧
    nextIs (exec (.enqueue k5) { base with q := List.replicate 8 k1, notifyCount := 2 })
      (fun t => t.q = List.replicate 8 k1 && t.notifyCount = 2 && t.overflow) = true ∧
    nextIs (exec (.overflowDrop k5) base) (fun t => t.q = [] && t.overflow) = true ∧
    nextIs (exec .signal { base with notifyCount := 4 }) (fun t => t.notifyCount = 4) = true ∧
    nextIs (exec .tryDequeue { base with q := [k1, k5], notifyCount := 1 })
      (fun t => t.out = [.dequeued (some k1)] && t.q = [k5] && t.notifyCount = 1) = true := by decide

theorem test_waitNotifier :
    nextIs (exec (.waitNotifier .forever) { base with notifyCount := 2 })
      (fun t => t.out = [.waited 0 .woken] && t.notifyCount = 1) = true ∧
    nextIs (exec (.waitNotifier (.deadline 5)) { base with now := 5 }) (fun t => t.out = [.waited 0 .timedOut]) = true ∧
    nextIs (exec (.waitNotifier (.cancel 3)) base)
      (fun t => t.out = [] && t.calls = [⟨0, .wait, some (.cancel 3), .waiting⟩]) = true := by decide

/-! ### Witnesses: a state and operands that meet the hypotheses of each obligation, clause by clause -/

/-- A read of K1 in progress: the sync byte is next. -/
def feedingK1 (a : List Event) : State :=
  { base with reader := .feeding [0xBB, 0x05, 0xE3, 0x42, 0x2C], agenda := a }

/-- The parser invariant at the first and last places of the payload phase, and after a rollback candidate. -/
theorem test_witness_parserInv :
    Parser.reset.Inv ∧ (collecting .waitExtraData 0x02 2 2).parser.Inv ∧ (collecting .waitExtraData 0xFF 127 127).parser.Inv ∧
    (collecting .waitExtraData 0x02 2 1).parser.Inv ∧ (collecting .waitExtraData 0xFF 127 1).parser.Inv ∧
    (collecting .waitExtraDataCrc16b 0x8D 13 0).parser.Inv ∧
    (at_ .waitHeaderCrc8 #v[0xBB, 0xBB, 7, 8] (some .k1)).parser.Inv ∧
    (at_ .waitHeaderCrc8 #v[0xBB, 1, 0xBB, 7] (some .k2)).parser.Inv ∧
    (at_ .waitHeaderCrc8 #v[0xBB, 1, 2, 0xBB] (some .k3)).parser.Inv ∧
    (at_ .waitHeaderCrc8 #v[0xBB, 5, 0xE3, 0x42]).parser.Inv := by
  refine ⟨?_, ?_, ?_, ?_, ?_, ?_, ?_, ?_, ?_, ?_⟩ <;> constructor <;> decide

theorem test_witness_StepRunsScheduledOperation :
    ({ base with agenda := [.op .tryDequeue, .reader] } : State).agenda = .op .tryDequeue :: [.reader] ∧
    ¬ innerCall .tryDequeue ∧
    ({ base with agenda := [.op .signal, .reader] } : State).agenda = .op .signal :: [.reader] ∧ innerCall .signal ∧
    innerCall (.waitNotifier .forever) ∧
    ({ base with agenda := [.op (.enqueue k1)] } : State).agenda = .op (.enqueue k1) :: [] ∧
    innerCall (.enqueue k1) := by
  refine ⟨by decide, ?_, by decide, .inl (.inr (.inr (.inl (Eq.refl _)))), .inr ⟨_, Eq.refl _⟩, by decide,
    .inl (.inr (.inr (.inr ⟨k1, .inl (Eq.refl _)⟩)))⟩
  rintro ((⟨_, _, _, h⟩ | h | h | ⟨_, h | h⟩) | ⟨_, h⟩) <;> cases h

theorem test_witness_StepRunsSelectedTransition :
    (feedingK1 []).reader = .feeding (0xBB :: [0x05, 0xE3, 0x42, 0x2C]) ∧ (feedingK1 []).agenda = [] ∧
    selectTrans (feedingK1 []).par (feedingK1 []).parser 0xBB = some .searchSync ∧
    (feedingK1 [.reader]).reader = .feeding (0xBB :: [0x05, 0xE3, 0x42, 0x2C]) ∧
    (feedingK1 [.reader]).agenda = .reader :: [] ∧
    selectTrans (feedingK1 [.reader]).par (feedingK1 [.reader]).parser 0xBB = some .searchSync := by decide

theorem test_witness_FrameDecodeEncodeAgree : (pl [0x42]).val ≠ [] ∧ (famN 127).val ≠ [] := by decide +kernel

theorem test_witness_NoFrameWithoutSyncAndHeaderCrc :
    (0x05 : Byte) ≠ 0xBB ∧ (0x2D : Byte) ≠ crc8 parS [0xBB, 0x05, 0xE3, 0x42] := by decide +kernel

theorem test_witness_UnselectedRowRunsSelected :
    (let s := offered 0x05 (at_ .waitAddress #v[0xBB, 0, 0, 0]);
      s.reader = .feeding (0x05 :: [0xBB]) ∧ (Trans.cmd = .searchSync → (0x05 : Byte) = 0xBB) ∧
        selectTrans s.par s.parser 0x05 = some .addr) ∧
    (let s := offered 0xBB (at_ .waitAddress #v[0xBB, 0, 0, 0]);
      s.reader = .feeding (0xBB :: [0xBB]) ∧ (Trans.searchSync = .searchSync → (0xBB : Byte) = 0xBB) ∧
        selectTrans s.par s.parser 0xBB = some .addr) ∧
    ((sreq [2]).valid = true ∧ (sreq [2]).origin = .host ∧ (sreq [2]).command = 0) ∧
    (k1.valid = true ∧ k1.origin = .host ∧ k1.command ≠ 0) ∧ (k5.valid = true ∧ k5.origin = .device) ∧
    ((srep [5]).valid = true ∧ (srep [5]).origin = .device ∧ (srep [5]).command = 0 ∧ (srep [5]).payload.val ≠ []) ∧
    (let r : Packet := ⟨.device, 7, false, 0, pl []⟩;
      r.valid = true ∧ r.origin = .device ∧ r.command = 0 ∧ r.roleFlag = false ∧ r.payload.val = []) := by decide

theorem test_witness_SearchTransitions :
    ((offered 0xBA base).reader = .feeding (0xBA :: [0xBB]) ∧ (offered 0xBA base).parser.st = .searchHeader ∧
      (0xBA : Byte) ≠ 0xBB) ∧
    (offered 0xBB base).reader = .feeding (0xBB :: [0xBB]) ∧ (offered 0xBB base).parser.st = .searchHeader := by decide

theorem test_witness_HeaderBytesAreCollected :
    (let s := offered 0x05 (at_ .waitAddress #v[0xBB, 0, 0, 0]);
      s.reader = .feeding (0x05 :: [0xBB]) ∧ s.parser.st = .waitAddress) ∧
    (let s := offered 0xBB (at_ .waitCommand #v[0xBB, 5, 0, 0]);
      s.reader = .feeding (0xBB :: [0xBB]) ∧ s.parser.st = .waitCommand) ∧
    (let s := offered 0x42 (at_ .waitDataLength #v[0xBB, 5, 0xE3, 0]);
      s.reader = .feeding (0x42 :: [0xBB]) ∧ s.parser.st = .waitDataLength) := by decide

theorem test_witness_HeaderMatchEmitsEmpty :
    let s := offered 0x95 (at_ .waitHeaderCrc8 #v[0xBB, 9, 0x51, 0x80])
    s.reader = .feeding (0x95 :: [0xBB]) ∧ s.parser.st = .waitHeaderCrc8 ∧ 0x95 = crc8 s.par (header s.parser) ∧
      s.parser.hdr[2].getLsbD 5 = false ∧ s.parser.hdr[3].extractLsb' 0 7 = 0 := by decide +kernel

theorem test_witness_HeaderMatchWithData :
    (let s := offered 0x2C (at_ .waitHeaderCrc8 #v[0xBB, 5, 0xE3, 0x42]);
      s.reader = .feeding (0x2C :: [0xBB]) ∧ s.parser.st = .waitHeaderCrc8 ∧ 0x2C = crc8 s.par (header s.parser) ∧
        s.parser.hdr[2].getLsbD 5 = true) ∧
    (let s := offered 0xBA (at_ .waitHeaderCrc8 #v[0xBB, 9, 0x51, 0xFF]);
      s.reader = .feeding (0xBA :: [0xBB]) ∧ s.parser.st = .waitHeaderCrc8 ∧ 0xBA = crc8 s.par (header s.parser) ∧
        s.parser.hdr[2].getLsbD 5 = false ∧ s.parser.hdr[3].extractLsb' 0 7 ≠ 0) := by decide +kernel

theorem test_witness_HeaderMismatchWithoutCandidate :
    let s := offered 0xBB (at_ .waitHeaderCrc8 #v[0xBB, 1, 2, 3])
    s.reader = .feeding (0xBB :: [0xBB]) ∧ s.parser.st = .waitHeaderCrc8 ∧ 0xBB ≠ crc8 s.par (header s.parser) ∧
      s.parser.rb = none := by decide +kernel

/-- The invariant of these three is in `test_witness_parserInv`. -/
theorem test_witness_RollbackClosedForm :
    (let s := offered 0xBB (at_ .waitHeaderCrc8 #v[0xBB, 0xBB, 7, 8] (some .k1));
      s.reader = .feeding (0xBB :: [0xBB]) ∧ s.parser.st = .waitHeaderCrc8 ∧ 0xBB ≠ crc8 s.par (header s.parser) ∧
        s.parser.rb = some .k1) ∧
    (let s := offered 0xBB (at_ .waitHeaderCrc8 #v[0xBB, 1, 0xBB, 7] (some .k2));
      s.reader = .feeding (0xBB :: [0xBB]) ∧ s.parser.st = .waitHeaderCrc8 ∧ 0xBB ≠ crc8 s.par (header s.parser) ∧
        s.parser.rb = some .k2) ∧
    (let s := offered 0x09 (at_ .waitHeaderCrc8 #v[0xBB, 1, 2, 0xBB] (some .k3));
      s.reader = .feeding (0x09 :: [0xBB]) ∧ s.parser.st = .waitHeaderCrc8 ∧ 0x09 ≠ crc8 s.par (header s.parser) ∧
        s.parser.rb = some .k3) := by
  decide +kernel

/-- The invariant of these is in `test_witness_parserInv`. -/
theorem test_witness_PayloadBytesAreStored :
    (let s := offered 0x01 (collecting .waitExtraData 0x02 2 2);
      s.reader = .feeding (0x01 :: [0xBB]) ∧ s.parser.st = .waitExtraData ∧ 1 < s.parser.remaining.toNat) ∧
    (let s := offered 0x08 (collecting .waitExtraData 0x02 2 1);
      s.reader = .feeding (0x08 :: [0xBB]) ∧ s.parser.st = .waitExtraData ∧ s.parser.remaining.toNat = 1 ∧
        s.parser.hdr[3].getLsbD 7 = false) ∧
    (let s := offered 0x73 (collecting .waitExtraData 0xFF 127 1);
      s.reader = .feeding (0x73 :: [0xBB]) ∧ s.parser.st = .waitExtraData ∧ s.parser.remaining.toNat = 1 ∧
        s.parser.hdr[3].getLsbD 7 = true) := by
  decide

theorem test_witness_PayloadMatchEmits :
    (let s := offered 0x63 (collecting .waitExtraDataCrc8 0x02 2 0);
      s.reader = .feeding (0x63 :: [0xBB]) ∧ s.parser.st = .waitExtraDataCrc8 ∧
        0x63 = crc8 s.par (stored s.parser).val) ∧
    (let s := offered 0xBC (collecting .waitExtraDataCrc16a 0x8D 13 0);
      s.reader = .feeding (0xBC :: [0xBB]) ∧ s.parser.st = .waitExtraDataCrc16a) ∧
    (let s := offered 0xAC (collecting .waitExtraDataCrc16b 0x8D 13 0 0xBC);
      s.reader = .feeding (0xAC :: [0xBB]) ∧ s.parser.st = .waitExtraDataCrc16b ∧
        s.parser.crcHi.toNat * 256 + (0xAC : Byte).toNat = (crc16 s.par (stored s.parser).val).toNat) := by
  decide +kernel

theorem test_witness_PayloadMismatchDropsFrame :
    (let s := offered 0x62 (collecting .waitExtraDataCrc8 0x02 2 0);
      s.reader = .feeding (0x62 :: [0xBB]) ∧ s.parser.st = .waitExtraDataCrc8 ∧
        0x62 ≠ crc8 s.par (stored s.parser).val) ∧
    (let s := offered 0xAC (collecting .waitExtraDataCrc16b 0x8D 13 0 0xBD);
      s.reader = .feeding (0xAC :: [0xBB]) ∧ s.parser.st = .waitExtraDataCrc16b ∧
        s.parser.crcHi.toNat * 256 + (0xAC : Byte).toNat ≠ (crc16 s.par (stored s.parser).val).toNat) := by
  decide +kernel

/-- The reader is free from reset; it is not once it has stopped, on a closed stream, or with a byte before. -/
theorem test_witness_ready :
    ready base ∧ ready { base with reader := .reading } ∧ ¬ ready { base with stop := true, reader := .halted } ∧
    ¬ ready { base with shutdown := .closed } ∧ ¬ ready { base with rx := [0xBB] } ∧ ¬ ready (offered 0x05 base) := by
  refine ⟨?_, ?_, ?_, ?_, ?_, ?_⟩ <;> simp [ready, offered, base, State.reset]

/-- `ShortFrameIsReceived`, `LongFrameIsReceived`; `ready base` is in `test_witness_ready`. -/
theorem test_witness_FrameIsReceived :
    base.parser.st = .searchHeader ∧ (pl [0x42]).val ≠ [] ∧ (famN 127).val ≠ [] := by decide +kernel

/-- Every clause's two instructions do answer a next state. -/
theorem test_witness_NonCanonicalFormsAreEquivalent :
    base.parser.st = .searchHeader ∧
    ((pl []).val = [] ∧ nextIs (exec (.frameEmpty ⟨9, .device, true, 17⟩ false) base) (fun _ => true) = true ∧
      nextIs (exec (.frameEmpty ⟨9, .device, true, 17⟩ true) base) (fun _ => true) = true) ∧
    ((pl [1]).val = [1] ∧ nextIs (exec (.frameEmb ⟨9, .device, true, 17⟩ 1) base) (fun _ => true) = true ∧
      nextIs (exec (.frameCrc8 ⟨9, .device, true, 17⟩ (pl [1]) (crc8 base.par (pl [1]).val)) base)
        (fun _ => true) = true ∧
      nextIs (exec (.frameCrc16 ⟨9, .device, true, 17⟩ (pl [1]) (crc16 base.par (pl [1]).val)) base)
        (fun _ => true) = true) ∧
    ((famN 13).val ≠ [] ∧
      nextIs (exec (.frameCrc8 ⟨9, .device, true, 17⟩ (famN 13) (crc8 base.par (famN 13).val)) base)
        (fun _ => true) = true ∧
      nextIs (exec (.frameCrc16 ⟨9, .device, true, 17⟩ (famN 13) (crc16 base.par (famN 13).val)) base)
        (fun _ => true) = true) := by decide

theorem test_witness_EncodedPacketRoundTrips :
    k1.valid = true ∧ (v 127).valid = true ∧ base.parser.st = .searchHeader ∧
    4 < (encodePacket base.par k1).length ∧ 133 < (encodePacket base.par (v 127)).length := by decide +kernel

/-- The parser invariant of `base` is that of `Parser.reset` in `test_witness_parserInv`; `ready base` is in
`test_witness_ready`. -/
theorem test_witness_ReaderStepsAreParserSteps :
    base.parser = Parser.reset ∧ ([0xBB] : List Byte) ≠ [] ∧
    frameBytes base.par (.frameEmb ⟨5, .host, true, 3⟩ 0x42) [0xBB, 0x05, 0xE3, 0x42, 0x2C] ∧ base.reader = .between ∧
    base.agenda = [] := by
  refine ⟨by decide +kernel, by decide, ?_, by decide, by decide⟩
  show _ = embBytes base.par ⟨5, .host, true, 3⟩ 0x42
  decide +kernel

theorem test_witness_EmitClassifiesAndEnqueues :
    classify ⟨0x00, 0xC3, pl []⟩ = none ∧ classify ⟨0x05, 0xE3, pl [0x42]⟩ = some k1 ∧
    ({ base with q := List.replicate 7 k1 } : State).q.length < base.par.queueDepth ∧
    base.par.queueDepth ≤ ({ base with q := List.replicate 8 k1 } : State).q.length := by decide

theorem test_witness_EnqueueAppendsThenSignals :
    k1.valid = true ∧ ({ base with q := List.replicate 7 k1 } : State).q.length < base.par.queueDepth ∧
    base.par.queueDepth ≤ ({ base with q := List.replicate 8 k1 } : State).q.length ∧
    nextIs (exec (.enqueue k1) base) (fun _ => true) = true ∧
    ({ base with notifyCount := 3 } : State).notifyCount < base.par.notifyCap ∧
    base.par.notifyCap ≤ ({ base with notifyCount := 4 } : State).notifyCount := by decide

theorem test_witness_TryDequeueTakesHead :
    base.q = [] ∧ ({ base with q := [k1, k5] } : State).q = k1 :: [k5] := by decide

theorem test_witness_KindsClassify :
    ((0x81 : Byte).getLsbD 7 = true ∧ (0x81 : Byte).extractLsb' 0 5 ≠ 0) ∧
    ((0x1F : Byte).getLsbD 7 = false ∧ (0x1F : Byte).extractLsb' 0 5 ≠ 0) ∧
    ((0xC0 : Byte).getLsbD 7 = true ∧ (0xC0 : Byte).extractLsb' 0 5 = 0) ∧
    ((0x60 : Byte).getLsbD 7 = false ∧ (0x60 : Byte).extractLsb' 0 5 = 0) := by decide

theorem test_witness_SystemRequestActions :
    (∀ b ∈ [1, 2, 3, 4, 5, 6], (sreq [b]).valid = true ∧ (sreq [b]).origin = .host ∧ (sreq [b]).command = 0 ∧
      (sreq [b]).payload.val = b :: []) ∧
    base.par.distinct ∧ base.par.sysPing = 1 ∧ base.par.sysReboot = 2 ∧ base.par.sysBlinkOn = 3 ∧
    base.par.sysBlinkOff = 4 ∧ base.par.sysFwUpgrade = 5 ∧
    (6 : Byte) ∉ [base.par.sysPing, base.par.sysReboot, base.par.sysBlinkOn, base.par.sysBlinkOff,
      base.par.sysFwUpgrade] ∧
    (sreq []).valid = true ∧ (sreq []).payload.val = [] := by decide

theorem test_witness_SystemReportAttributes :
    ((srep []).valid = true ∧ (srep []).origin = .device ∧ (srep []).command = 0 ∧ (srep []).payload.val = [] ∧
      (srep []).roleFlag = true) ∧
    ((srep [5]).valid = true ∧ (srep [5]).origin = .device ∧ (srep [5]).command = 0 ∧
      (srep [5]).payload.val = 5 :: []) := by decide

theorem test_witness_InvalidPacketIsRejected : bad.valid = false := by decide

/-- Lengths 1, 0, 2, 12, 13, 127. -/
theorem test_witness_EncoderCases :
    ((v 1).valid = true ∧ (v 1).payload.val = [1]) ∧ ((v 0).valid = true ∧ (v 0).payload.val = []) ∧
    ((v 2).valid = true ∧ 2 ≤ (v 2).payload.val.length ∧ (v 12).payload.val.length ≤ 12) ∧
    (v 12).valid = true ∧ ((v 13).valid = true ∧ 13 ≤ (v 13).payload.val.length) ∧
    ((v 127).valid = true ∧ 13 ≤ (v 127).payload.val.length) := by decide +kernel

/-- `ReceiveTakesFirstAccepted`, `ReceiveStepsGiveWholeReceive`: none passed over, and two passed over. That nothing is
accepted, and a signal fired or not, is in `test_witness_ReceiveFindsNothing`. -/
theorem test_witness_ReceiveTakesFirstAccepted :
    (∀ c ∈ base.calls, c.id ≠ base.nextCall) ∧
    ({ base with q := [k1] } : State).q = [] ++ k1 :: [] ∧ letsThrough .monitor k1 ∧
    ({ base with q := [k1, k2, k5, k1] } : State).q = [k1, k2] ++ k5 :: [k1] ∧
    (∀ x ∈ [k1, k2], ¬ letsThrough .host x) ∧ letsThrough .host k5 ∧ (∀ x ∈ [k5], ¬ letsThrough .device x) ∧
    letsThrough .device k1 := by
  refine ⟨by decide, by decide, True.intro, by decide, ?_, Eq.refl _, ?_, Eq.refl _⟩ <;>
    simp [letsThrough, k1, k2, k5]

theorem test_witness_ReceiveFindsNothing :
    (∀ x ∈ ({ base with q := [k1, k2] } : State).q, ¬ letsThrough .host x) ∧
    (∀ x ∈ base.q, ¬ letsThrough .monitor x) ∧ 3 ∈ ({ base with fired := [3] } : State).fired ∧ 3 ∉ base.fired := by
  refine ⟨?_, ?_, by decide, by decide⟩ <;> simp [letsThrough, k1, k2, base, State.reset]

/-- A Host call in progress that is about to look at the queue, and the step that makes it look; and the whole call. -/
def lookingHost : State :=
  { base with q := [k5], calls := [⟨0, .receive .host, some .forever, .ready⟩], nextCall := 1, agenda := [.callStep 0] }

theorem test_witness_HostNeverSurfacesHostPackets :
    nextIs (exec (receiveInstr .host .attempt) { base with q := [k1, k5] }) (fun _ => true) = true ∧
    lookingHost.CallInv ∧
    nextIs (step lookingHost) (fun t => .received 0 (.ok k5) ∈ t.out.drop lookingHost.out.length) = true ∧
    (∃ c ∈ lookingHost.calls, c.id = 0 ∧ c.kind = .receive .host) ∧
    nextIs (step { base with q := [k1, k5], agenda := [.op (receiveInstr .host .attempt)] })
      (fun t => .received 0 (.ok k5) ∈ t.out.drop 0) = true := by
  refine ⟨by decide, ?_, by decide, by decide, by decide⟩
  constructor <;> decide

/-- A consumer blocked with a deadline, and one with a signal; the wake, the expiry and the abort scheduled. -/
def blocked (l : Limit) (a : List Event) : State :=
  { base with calls := [⟨0, .receive .host, some l, .waiting⟩], nextCall := 1, agenda := a }

theorem test_witness_WaitNotifierTakesAnEnabledStep :
    (0 < ({ base with notifyCount := 1 } : State).notifyCount ∧ ended .forever { base with notifyCount := 1 } = false) ∧
    (0 ≤ base.now ∧ base.notifyCount = 0) ∧
    (3 ∈ ({ base with fired := [3] } : State).fired ∧ ({ base with fired := [3] } : State).notifyCount = 0) ∧
    (base.notifyCount = 0 ∧ ended (.deadline 1) base = false) ∧
    (0 ≤ base.now ∧ 0 < ({ base with notifyCount := 1 } : State).notifyCount) ∧
    (3 ∈ ({ base with fired := [3], notifyCount := 1 } : State).fired ∧
      0 < ({ base with fired := [3], notifyCount := 1 } : State).notifyCount) := by decide

/-- The same for a wait on its own. -/
def blockedWait (l : Limit) (a : List Event) : State :=
  { base with calls := [⟨0, .wait, some l, .waiting⟩], nextCall := 1, agenda := a }

theorem test_witness_WakeTakesOneCount :
    findCall 0 (blockedWait .forever [.wake 0]) = some ⟨0, .wait, some .forever, .waiting⟩ ∧
    (blockedWait .forever [.wake 0]).agenda = .wake 0 :: [] ∧ (blockedWait .forever [.wake 0]).notifyCount = 0 ∧
    0 < ({ blockedWait .forever [.wake 0] with notifyCount := 1 } : State).notifyCount ∧
    (blocked .forever [.wake 0]).agenda = .wake 0 :: [] ∧
    findCall 0 (blocked .forever [.wake 0]) = some ⟨0, .receive .host, some .forever, .waiting⟩ ∧
    (blocked .forever [.wake 0]).notifyCount = 0 ∧
    0 < ({ blocked .forever [.wake 0] with notifyCount := 1 } : State).notifyCount := by decide

theorem test_witness_WaitEndsOnlyByItsLimit :
    findCall 0 (blockedWait (.deadline 5) [.expire 0]) = some ⟨0, .wait, some (.deadline 5), .waiting⟩ ∧
    findCall 0 (blockedWait (.cancel 3) [.abort 0]) = some ⟨0, .wait, some (.cancel 3), .waiting⟩ ∧
    (blocked (.deadline 5) [.expire 0]).agenda = .expire 0 :: [] ∧
    findCall 0 (blocked (.deadline 5) [.expire 0]) = some ⟨0, .receive .host, some (.deadline 5), .waiting⟩ ∧
    ({ blocked (.deadline 5) [.expire 0] with now := 4 } : State).now < 5 ∧
    5 ≤ ({ blocked (.deadline 5) [.expire 0] with now := 5 } : State).now ∧
    (blocked (.cancel 3) [.abort 0]).agenda = .abort 0 :: [] ∧
    findCall 0 (blocked (.cancel 3) [.abort 0]) = some ⟨0, .receive .host, some (.cancel 3), .waiting⟩ ∧
    3 ∉ (blocked (.cancel 3) [.abort 0]).fired ∧
    3 ∈ ({ blocked (.cancel 3) [.abort 0] with fired := [3] } : State).fired := by decide

theorem test_witness_ReadSideLeavesTheRest :
    nextIs (exec (receiveInstr .host (.cancellable 3)) base) (fun _ => true) = true ∧
    nextIs (exec .tryDequeue base) (fun _ => true) = true ∧
    nextIs (exec (.waitNotifier .forever) base) (fun _ => true) = true := by decide

/-- The arguments of K1. -/
def k1Draft : Draft := .customRequest 5 3 [0x42] true

theorem test_witness_TrySendWritesWholeFrame :
    k1Draft.construct = some k1 ∧ mayBeSent .host k1 ∧ base.sendToken = .free ∧ base.shutdown ≠ .closed ∧
    base.writeFault = none := by
  refine ⟨by decide, Eq.refl _, by decide, by decide, by decide⟩

theorem test_witness_TrySendTurnsAwayWaitsOrFails :
    (Draft.customRequest 0 3 [] true).construct = none ∧ (k1Draft.construct = some k1 ∧ ¬ mayBeSent .device k1) ∧
    mayBeSent .monitor k1 ∧ ({ base with sendToken := .held } : State).sendToken = .held ∧
    (({ base with writeFault := some 2 } : State).sendToken = .free ∧
      ({ base with writeFault := some 2 } : State).writeFault = some 2) ∧
    (({ base with shutdown := .closed } : State).sendToken = .free ∧
      ({ base with shutdown := .closed } : State).shutdown = .closed ∧
      ({ base with shutdown := .closed } : State).writeFault = none) := by
  refine ⟨by decide, ⟨by decide, by simp [mayBeSent, k1]⟩, True.intro, by decide, by decide, by decide⟩

theorem test_witness_SendLinesGiveWholeSend :
    (∀ x ∈ base.sends, x.id ≠ base.nextSend) ∧ base.sendToken = .free := by decide

theorem test_witness_SendingLeavesReceiveSide :
    nextIs (exec (.trySend .host k1Draft) base) (fun _ => true) = true := by decide

theorem test_witness_PureOperationsOnlyReturn :
    onlyReturns (.fnRev8 1) = true ∧ nextIs (exec (.fnRev8 1) base) (fun _ => true) = true := by decide

/-- `ready` and its opposite are in `test_witness_ready`. The last two: a step in which the reader takes no byte. -/
theorem test_witness_WriteDomainLeavesTheRest :
    nextIs (exec (transInstr .searchSync 0xBB) base) (fun _ => true) = true ∧
    nextIs (exec (.frameEmb ⟨5, .host, true, 3⟩ 0x42) base) (fun _ => true) = true ∧
    nextIs (exec (.frameEmpty ⟨7, .device, true, 0⟩ false) base) (fun _ => true) = true ∧
    nextIs (exec (.frameCrc8 ⟨9, .device, true, 17⟩ (pl [1]) 0) base) (fun _ => true) = true ∧
    nextIs (exec (.frameCrc16 ⟨9, .device, true, 17⟩ (pl [1]) 0) base) (fun _ => true) = true ∧
    k1.valid = true ∧ nextIs (exec (.enqueue k1) base) (fun _ => true) = true ∧
    frameBytes base.par (.frameEmpty ⟨7, .device, true, 0⟩ true) (emptyBytes base.par ⟨7, .device, true, 0⟩ true) ∧
    (Trans.addr = .searchSync → (0x05 : Byte) = 0xBB) ∧
    (∀ left, ({ base with stop := true, reader := .halted } : State).reader ≠ .feeding (0x05 :: left)) ∧
    nextIs (step { base with agenda := [.op (.enqueue k1)] }) (fun _ => true) = true ∧
    ¬ takesByte { base with agenda := [.op (.enqueue k1)] } := by
  refine ⟨by decide, by decide, by decide, by decide, by decide, by decide, by decide, Eq.refl _, by decide, ?_, by decide, ?_⟩
  · intro left h
    cases h
  · rintro (⟨h | ⟨_, h⟩, -⟩ | ⟨tr, _, _, h, -⟩ | ⟨i, _, _, h, hi, -⟩)
    · cases h
    · cases h
    · cases tr <;> cases h
    · cases h; exact hi

theorem test_witness_ShutdownSetsStop :
    base.shutdown = .notBegun ∧ ({ base with shutdown := .grace 0 } : State).shutdown ≠ .notBegun ∧
    ({ base with agenda := [.closeStream] } : State).agenda = .closeStream :: [] ∧
    ({ base with agenda := [.closeStream], shutdown := .grace 5, now := 4 } : State).now < 5 ∧
    5 ≤ ({ base with agenda := [.closeStream], shutdown := .grace 5, now := 5 } : State).now := by decide

/-- The parser invariant of `feedingK1 []` is that of `Parser.reset` in `test_witness_parserInv`. -/
theorem test_witness_ReaderLoop :
    base.agenda = [] ∧ base.reader = .between ∧ base.stop = false ∧ ({ base with stop := true } : State).stop = true ∧
    ({ base with reader := .halted } : State).reader = .halted ∧
    ({ base with reader := .reading, agenda := [.readTimeout] } : State).agenda = .readTimeout :: [] ∧
    ({ base with reader := .reading, agenda := [.readError] } : State).agenda = .readError :: [] ∧
    (base.shutdown ≠ .closed ∧ ({ base with reader := .reading } : State).reader = .reading ∧
      ({ base with reader := .reading, agenda := [.readData 3] } : State).agenda = .readData 3 :: []) ∧
    ({ base with reader := .reading, shutdown := .closed } : State).shutdown = .closed ∧ base.reader ≠ .reading ∧
    (feedingK1 []).agenda = [] ∧ (feedingK1 []).reader = .feeding (0xBB :: [0x05, 0xE3, 0x42, 0x2C]) ∧
    (feedingK1 []).parser = Parser.reset := by decide +kernel

/-- A state with packets queued and a count pending, a sender holding the token, another waiting for it, a call blocked. -/
def busy : State :=
  { base with
      q := [k1, k5], notifyCount := 2, sendToken := .held, nextSend := 2
      sends := [⟨0, [0xBB], .write⟩, ⟨1, [0xBB], .acquire⟩]
      calls := [⟨0, .receive .host, some .forever, .waiting⟩, ⟨1, .wait, some (.deadline 9), .waiting⟩], nextCall := 2
      agenda := [.sendStep 0] }

/-- The four step invariants, and a step from that state. -/
theorem test_witness_StepKeepsInvariants :
    busy.parser.Inv ∧ busy.QueueInv ∧ busy.SendInv ∧ busy.CallInv ∧ nextIs (step busy) (fun _ => true) = true := by
  refine ⟨?_, ?_, ?_, ?_, by decide⟩ <;> constructor <;> decide

/-- A Host receive blocked, nobody about to look, packets queued, a count pending; its WAKE is next. -/
def oneBlocked : State :=
  { base with
      q := [k1, k5], notifyCount := 1, calls := [⟨0, .receive .host, some .forever, .waiting⟩], nextCall := 1
      agenda := [.wake 0] }

/-- The wake-ups of `StepKeepsCallInvariant`: R167 (b) at the bound (one blocked, `NOTIFY_CAP` 1) and (a). -/
theorem test_witness_StepKeepsCallInvariant :
    oneBlocked.CallInv ∧ oneBlocked.WakeInv ∧ oneBlocked.blocked ≤ oneBlocked.par.notifyCap ∧ oneBlocked.looking = 0 ∧
    ⟨0, .receive .host, some .forever, .waiting⟩ ∈ oneBlocked.calls ∧ oneBlocked.q ≠ [] ∧
    oneBlocked.agenda = .wake 0 :: [] ∧ nextIs (step oneBlocked) (fun t => t.notifyCount = 0 && t.q = [k1, k5]) = true ∧
    (let par := { base.par with notifyCapLess1 := 0 }
     ({ oneBlocked with par := par } : State).blocked ≤ par.notifyCap) := by
  refine ⟨?_, ?_, by decide, by decide, by decide, by decide, by decide, by decide, by decide⟩ <;> constructor <;> decide

/-- `StepOnlyGoesOnward`, `QueueMovesInOrder`. -/
theorem test_witness_StepAnswers : nextIs (step base) (fun _ => true) = true := by decide

end Sys2Proof.Tests
end

section
/-!
The parser's transitions (41_parser.md R100 to R122): the row that applies is the one the parser selects, an instruction of
that row does what the row says once the reader takes its byte, and each statement is that equation at its own rows.
-/

open Sys2Proof Sys2Proof.Machine Sys2Proof.Stated

namespace Sys2Proof.Proofs

/-! ### R100: the row that applies is the one selected -/

/-- Outside `WaitExtraData` no rule reads the payload counters (R30 (d)). -/
theorem live_of_st_ne {p : Parser} (h : p.st ≠ .waitExtraData) : p.live = true := by
  simp [Parser.live, h]

/-- A checksum received first byte high is the number `hi * 256 + lo` (R43, R96). -/
theorem toNat_bePair (hi lo : Byte) : (bePair hi lo).toNat = hi.toNat * 256 + lo.toNat := by
  rw [bePair, BitVec.toNat_append, ← Nat.shiftLeft_add_eq_or_of_lt lo.isLt, Nat.shiftLeft_eq]

/-- The received CRC-16 matches exactly where its two bytes spell the computed value (R119, R120). -/
theorem bePair_eq_iff {hi lo : Byte} {w : Word16} : bePair hi lo = w ↔ hi.toNat * 256 + lo.toNat = w.toNat := by
  rw [← BitVec.toNat_inj, toNat_bePair]

/-- The stored header of the statements is the one the header check reads (R95 (a)). -/
theorem crc8_header (par : Params) (p : Parser) : crc8 par (header p) = p.headerCrc par :=
  (p.headerCrc_eq par).symm

/-- The stored payload of the statements is the one the trailing checksums read (R95 (b)). -/
theorem stored_eq_payload (p : Parser) : stored p = p.payload := rfl

/-- A row of R100 that applies is the transition the parser selects. -/
theorem selectTrans_of_rowApplies {par : Params} {p : Parser} {b : Byte} {t : Trans} (hl : p.live = true)
    (h : rowApplies par p b t) : selectTrans par p b = some t := by
  cases t <;> simp only [rowApplies, crc8_header, stored_eq_payload, ne_eq, ← bePair_eq_iff] at h
  case addr | cmd | len | pcrc16a => simp only [selectTrans, h]
  case searchSkip =>
    obtain ⟨hst, hb⟩ := h
    simp only [selectTrans, hst, if_neg (show ¬ b = Config.sync from hb)]
  case searchSync =>
    obtain ⟨hst, hb⟩ := h
    simp only [selectTrans, hst, if_pos (show b = Config.sync from hb)]
  case hcrcOkEmb =>
    obtain ⟨hst, hb, he⟩ := h
    simp only [selectTrans, hst, if_pos hb, embeddedOf, he, if_true]
  case hcrcOkEmpty | hcrcOkData =>
    obtain ⟨hst, hb, he, hn⟩ := h
    simp only [selectTrans, hst, if_pos hb, embeddedOf, he, lengthOf, hn, Bool.false_eq_true, if_false, if_true]
  case hcrcBadNoroll =>
    obtain ⟨hst, hb, hrb⟩ := h
    simp only [selectTrans, hst, if_neg hb, hrb]
  case hcrcBadRollback =>
    obtain ⟨hst, hb, hrb⟩ := h
    obtain ⟨k, hk⟩ := Option.ne_none_iff_exists'.mp hrb
    simp only [selectTrans, hst, if_neg hb, hk]
  case dataMore =>
    obtain ⟨hst, hn⟩ := h
    have hlast : p.remaining ≠ 1 := fun e => by rw [e] at hn; exact absurd hn (by decide)
    simp only [selectTrans, hst, hl, if_true, if_neg hlast]
  case dataLast8 | dataLast16 =>
    obtain ⟨hst, hn, hc⟩ := h
    have hlast : p.remaining = 1 := BitVec.eq_of_toNat_eq hn
    simp only [selectTrans, hst, hl, if_true, if_pos hlast, crc16selOf, hc, Bool.false_eq_true, if_false]
  case pcrc8Ok | pcrc16bOk =>
    obtain ⟨hst, hb⟩ := h
    simp only [selectTrans, hst, if_pos hb]
  case pcrc8Bad | pcrc16bBad =>
    obtain ⟨hst, hb⟩ := h
    simp only [selectTrans, hst, if_neg hb]

/-! ### A transition whose byte the reader takes -/

/-- An instruction of a row that applies, with the next byte of the reader's read: the reader moves past the byte, and the
parser does what that row says. -/
theorem exec_transInstr_feeding {s : State} {b : Byte} {left : List Byte} (t : Trans)
    (hr : s.reader = .feeding (b :: left)) (hl : s.parser.live = true) (h : rowApplies s.par s.parser b t) :
    exec (transInstr t b) s = .next (applyTrans t b (took left s)) := by
  have hsel : selectTrans (took left s).par (took left s).parser b = some t := selectTrans_of_rowApplies hl h
  have htook : fetchByte b s = some (took left s) := by
    simp [fetchByte_feeding hr, took, afterTake]
  have htake : takeTransition t b s = .next (applyTrans t b (took left s)) := by
    rw [takeTransition, htook]
    exact parserStep_of_select t hsel
  cases t
  case searchSync => exact h.2 ▸ htake
  all_goals exact htake

/-! ### The payload counters -/

/-- Where R30 (d) holds, a payload byte goes to the index `paylen - remaining`, and the count goes down by one. -/
theorem storePay_eq {p : Parser} (b : Byte) (h1 : 1 ≤ p.remaining.toNat) (h2 : p.remaining.toNat ≤ p.paylen.toNat) :
    p.storePay b = { p with
      pay := p.pay.setIfInBounds (p.paylen.toNat - p.remaining.toNat) b
      remaining := BitVec.ofNat 7 (p.remaining.toNat - 1) } := by
  rw [Parser.storePay, BitVec.toNat_sub_of_le h2, ← toNat_sub_one h1, BitVec.ofNat_toNat, BitVec.setWidth_eq]

/-- The last payload byte goes to the index `paylen - 1` and leaves none to count (R114, R115). -/
theorem storePay_last {p : Parser} (b : Byte) (h1 : p.remaining.toNat = 1) (h2 : p.remaining.toNat ≤ p.paylen.toNat) :
    p.storePay b = { p with pay := p.pay.setIfInBounds (p.paylen.toNat - 1) b, remaining := 0 } := by
  rw [storePay_eq b (Nat.le_of_eq h1.symm) h2, h1, Nat.sub_self, BitVec.ofNat_eq_ofNat]

/-! ### The statements -/

/-- Settles O14: the row selected stores the byte, and under R30 (d) the counters count in plain numbers. -/
theorem payloadBytesAreStored : Obligations.PayloadBytesAreStored := by
  intro s b left hr hinv hst
  obtain ⟨h1, h2, -, -⟩ := hinv.counting hst
  have hindex : s.parser.paylen.toNat - s.parser.remaining.toNat < 127 := by
    have hlen := s.parser.paylen.isLt
    omega
  refine ⟨hindex, fun hn => ?_, fun hn hc => ?_, fun hn hc => ?_⟩
  · rw [← storePay_eq b h1 h2]
    exact exec_transInstr_feeding .dataMore hr hinv.live ⟨hst, hn⟩
  · simpa only [transInstr, applyTrans, onParser, took, storePay_last b hn h2] using
      exec_transInstr_feeding .dataLast8 hr hinv.live ⟨hst, hn, hc⟩
  · simpa only [transInstr, applyTrans, onParser, took, storePay_last b hn h2] using
      exec_transInstr_feeding .dataLast16 hr hinv.live ⟨hst, hn, hc⟩

/-- Settles O8: which row applies in `SearchHeader` is whether the byte is the sync byte. -/
theorem searchTransitions : Obligations.SearchTransitions := by
  intro s b left hr hst
  have hl : s.parser.live = true := live_of_st_ne (by simp [hst])
  refine ⟨fun hb => ?_, fun hb => ?_⟩
  · exact exec_transInstr_feeding .searchSkip hr hl ⟨hst, hb⟩
  · exact exec_transInstr_feeding .searchSync hr hl ⟨hst, hb⟩

/-- Settles O9: each of the three states has one row, whatever the byte. -/
theorem headerBytesAreCollected : Obligations.HeaderBytesAreCollected := by
  intro s b left hr
  refine ⟨fun hst => ?_, fun hst => ?_, fun hst => ?_⟩
  · exact exec_transInstr_feeding .addr hr (live_of_st_ne (by simp [hst])) hst
  · exact exec_transInstr_feeding .cmd hr (live_of_st_ne (by simp [hst])) hst
  · exact exec_transInstr_feeding .len hr (live_of_st_ne (by simp [hst])) hst

/-- Settles O11: after a matching header check, the embedded bit and the length select the row. -/
theorem headerMatchWithData : Obligations.HeaderMatchWithData := by
  intro s b left hr hst hb
  have hl : s.parser.live = true := live_of_st_ne (by simp [hst])
  refine ⟨fun he => ?_, fun he hn => ?_⟩
  · exact exec_transInstr_feeding .hcrcOkEmb hr hl ⟨hst, hb, he⟩
  · exact exec_transInstr_feeding .hcrcOkData hr hl ⟨hst, hb, he, hn⟩

/-- Settles O15: the computed checksum selects the row; the first CRC-16 byte has one row, whatever it is. -/
theorem payloadMatchEmits : Obligations.PayloadMatchEmits := by
  intro s b left hr
  refine ⟨fun hst hb => ?_, fun hst => ?_, fun hst hb => ?_⟩
  · exact exec_transInstr_feeding .pcrc8Ok hr (live_of_st_ne (by simp [hst])) ⟨hst, hb⟩
  · exact exec_transInstr_feeding .pcrc16a hr (live_of_st_ne (by simp [hst])) hst
  · exact exec_transInstr_feeding .pcrc16bOk hr (live_of_st_ne (by simp [hst])) ⟨hst, hb⟩

/-- Settles O16: a checksum that differs selects the row that returns to search and emits nothing. -/
theorem payloadMismatchDropsFrame : Obligations.PayloadMismatchDropsFrame := by
  intro s b left hr
  refine ⟨fun hst hb => ?_, fun hst hb => ?_⟩
  · exact exec_transInstr_feeding .pcrc8Bad hr (live_of_st_ne (by simp [hst])) ⟨hst, hb⟩
  · exact exec_transInstr_feeding .pcrc16bBad hr (live_of_st_ne (by simp [hst])) ⟨hst, hb⟩

/-- Settles O17: both sides write the same two fields. -/
theorem returnToSearchKeepsBuffers : Obligations.ReturnToSearchKeepsBuffers := fun _ => rfl

end Sys2Proof.Proofs
end

section
/-!
The reference encoder (44_encoder_send.md R180 to R185): which form the payload length selects, and the length byte and the
big-endian checksum as the numbers the statement writes.
-/

open Sys2Proof Sys2Proof.Machine Sys2Proof.Stated

namespace Sys2Proof.Proofs

/-! ### Bytes as numbers -/

/-- Byte 3 of a frame that is not embedded, as a number (R63): the CRC-size flag has weight 128. -/
theorem lengthByte_eq_ofNat (c : Bool) (pl : Payload) :
    lengthByte c (BitVec.ofNat 7 pl.val.length) = BitVec.ofNat 8 (128 * c.toNat + pl.val.length) := by
  have hlen : pl.val.length < 2 ^ 7 := Nat.lt_succ_of_le pl.property
  have happend : (lengthByte c (BitVec.ofNat 7 pl.val.length)).toNat = 128 * c.toNat + pl.val.length := by
    rw [lengthByte, BitVec.toNat_append, Payload.toNat_length, BitVec.toNat_ofBool, ← Nat.shiftLeft_add_eq_or_of_lt hlen,
      Nat.shiftLeft_eq, Nat.mul_comm]
  rw [← happend, BitVec.ofNat_toNat, BitVec.setWidth_eq]

/-- The byte of a checksum sent first (R43). -/
theorem highByte_eq_ofNat (w : Word16) : highByte w = BitVec.ofNat 8 (w.toNat / 256) := by
  rw [highByte, BitVec.extractLsb', Nat.shiftRight_eq_div_pow]

/-- The byte of a checksum sent last (R43). -/
theorem lowByte_eq_ofNat (w : Word16) : lowByte w = BitVec.ofNat 8 w.toNat := rfl

/-! ### The form the payload length selects (R180) -/

section
variable {p : Packet} (par : Params)

theorem encodePacket_of_empty (h : p.payload.val = []) : encodePacket par p = emptyBytes par p.head false := by
  simp only [encodePacket, h]

theorem encodePacket_of_one {b : Byte} (h : p.payload.val = [b]) : encodePacket par p = embBytes par p.head b := by
  simp only [encodePacket, h]

/-- With two bytes or more, the threshold alone chooses between the two forms with a trailing checksum (R184, R185). -/
theorem encodePacket_of_two_le (h : 2 ≤ p.payload.val.length) :
    encodePacket par p =
      if p.payload.val.length ≤ Config.crc16Threshold then crc8Bytes par p.head p.payload (crc8 par p.payload.val)
      else crc16Bytes par p.head p.payload (crc16 par p.payload.val) := by
  unfold encodePacket
  split
  case h_1 hnil => simp [hnil] at h
  case h_2 b hone => simp [hone] at h
  case h_3 => rfl

end

/-- The encoder on a valid Packet: the bytes of its canonical frame are returned, and no state is written (R180). -/
theorem encodeOperand_of_encodePacket_eq {p : Packet} {s : State} {bytes : List Byte} (hv : p.valid = true)
    (h : encodePacket s.par p = bytes) : encodeOperand p s = .next (returned (.frame bytes) s) :=
  withPacket_next.mpr (.inl ⟨hv, h ▸ rfl⟩)

/-- Settles O34: each clause is the form its payload length selects, with the length byte and the checksum as numbers. -/
theorem encoderCases : Obligations.EncoderCases := by
  intro s p hv
  refine ⟨fun b hone => encodeOperand_of_encodePacket_eq hv ?_, fun hnil => encodeOperand_of_encodePacket_eq hv ?_,
    fun h2 h12 => encodeOperand_of_encodePacket_eq hv ?_, fun h13 => encodeOperand_of_encodePacket_eq hv ?_⟩
  · exact encodePacket_of_one s.par hone
  · exact encodePacket_of_empty s.par hnil
  · rw [encodePacket_of_two_le s.par h2, if_pos (show _ ≤ Config.crc16Threshold from h12), crc8Bytes, lengthByte_eq_ofNat,
      Bool.toNat_false, Nat.mul_zero, Nat.zero_add]
    rfl
  · rw [encodePacket_of_two_le s.par (by omega),
      if_neg (show ¬ _ ≤ Config.crc16Threshold from Nat.not_le_of_lt h13), crc16Bytes, lengthByte_eq_ofNat,
      highByte_eq_ofNat, lowByte_eq_ofNat, Bool.toNat_true, Nat.mul_one]
    rfl

end Sys2Proof.Proofs
end

section
/-!
The decoder gives back the frame that was encoded, and refuses what is no frame (30_encoding.md R60 to R69, R76).
-/

open Sys2Proof Sys2Proof.Machine Sys2Proof.Stated

namespace Sys2Proof.Proofs

/-! ### The header -/

/-- A header with its own checksum selects the body that bytes 2 and 3 name (R61, R64, R66). -/
theorem decodeFrame_headerBytes (par : Params) (h : Head) (e : Bool) (b3 : Byte) (more : List Byte) :
    decodeFrame par (headerBytes par h e b3 ++ more) =
      decodeBody h.addr (flagsByte h.origin h.role e h.command) b3 more := by
  simp [headerBytes, decodeFrame]

/-! ### A body with its payload -/

/-- The length field of a payload that is not empty is not 0 (R63). -/
theorem length_ne_zero {pl : Payload} (hpl : pl.val ≠ []) : BitVec.ofNat 7 pl.val.length ≠ 0 := by
  intro h
  have hlen : pl.val.length = 0 := by rw [← Payload.toNat_length, h]; rfl
  exact hpl (List.eq_nil_of_length_eq_zero hlen)

/-- The form of a frame that is not embedded and has a payload is the one its CRC-size flag selects (R66). -/
theorem formOf_lengthByte (h : Head) (c : Bool) {n : BitVec 7} (hn : n ≠ 0) :
    formOf (flagsByte h.origin h.role false h.command) (lengthByte c n) = if c then .crc16 else .crc8 := by
  simp only [formOf, embeddedOf_flagsByte, lengthOf_lengthByte, crc16selOf_lengthByte, if_neg hn, Bool.false_eq_true,
    if_false]

/-- The declared length takes a payload from the bytes it stands before. -/
theorem take_payload (pl : Payload) (more : List Byte) :
    Payload.take (BitVec.ofNat 7 pl.val.length) (pl.val ++ more) = pl :=
  Subtype.ext (by rw [Payload.val_take, Payload.toNat_length, List.take_left])

/-- And leaves what follows it. -/
theorem drop_payload (pl : Payload) (more : List Byte) :
    (pl.val ++ more).drop (BitVec.ofNat 7 pl.val.length).toNat = more := by
  rw [Payload.toNat_length, List.drop_left]

/-! ### The statements -/

/-- Settles O4: after the header, the form is that of the frame, and the declared length cuts off its payload. -/
theorem frameDecodeEncodeAgree : Obligations.FrameDecodeEncodeAgree := by
  intro par rest h datum s pl sum8 sum16
  refine ⟨?_, ?_, fun hpl => ⟨?_, ?_⟩⟩
  · rw [embBytes, decodeFrame_headerBytes]
    simp [decodeBody, formOf]
  · rw [emptyBytes, decodeFrame_headerBytes]
    simp [decodeBody, formOf]
  · rw [crc8Bytes, List.append_assoc, List.append_assoc, decodeFrame_headerBytes]
    simp only [decodeBody, formOf_lengthByte h false (length_ne_zero hpl), lengthOf_lengthByte, drop_payload,
      take_payload, Head.ofBytes_flagsByte, List.cons_append, List.nil_append, Bool.false_eq_true, if_false]
  · rw [crc16Bytes, List.append_assoc, List.append_assoc, decodeFrame_headerBytes]
    simp only [decodeBody, formOf_lengthByte h true (length_ne_zero hpl), lengthOf_lengthByte, drop_payload,
      take_payload, Head.ofBytes_flagsByte, bePair_high_low, List.cons_append, List.nil_append, if_true]

/-- Settles O5: each of the two tests of `decodeFrame` refuses by its own name. -/
theorem noFrameWithoutSyncAndHeaderCrc : Obligations.NoFrameWithoutSyncAndHeaderCrc := by
  intro par b0 b1 b2 b3 b4 rest
  refine ⟨fun h0 => ?_, fun h0 h4 => ?_⟩
  · unfold decodeFrame
    exact if_neg h0
  · simp only [decodeFrame, if_pos (show b0 = Config.sync from h0), if_neg h4]

/-- Settles O3: each word is read by the row whose pattern it has. -/
theorem tableWordsDecode : Obligations.TableWordsDecode := by
  refine ⟨?_, ?_, ?_, ?_, ?_, ?_, ?_, ?_, ?_⟩ <;> decide

end Sys2Proof.Proofs
end

section
/-!
The transition table and the parser invariant (41_parser.md R100 to R124, 10_state.md R30): the row the parser selects
applies, a replay collects header bytes one by one, and every transition keeps R30 (a) to (e).
-/

open Sys2Proof Sys2Proof.Machine Sys2Proof.Stated

namespace Sys2Proof.Proofs

/-! ### R100: the row selected applies -/

/-- Where the counters are as R30 (d) says and the byte is not the last, more than one byte is to come. -/
theorem one_lt_remaining {p : Parser} (hst : p.st = .waitExtraData) (hl : p.live = true) (h1 : p.remaining ≠ 1) :
    1 < p.remaining.toNat := by
  have h0 : p.remaining ≠ 0 := by
    rintro h
    simp [Parser.live, hst, h] at hl
  have h0' : p.remaining.toNat ≠ 0 := fun h => h0 (BitVec.eq_of_toNat_eq h)
  have h1' : p.remaining.toNat ≠ 1 := fun h => h1 (BitVec.eq_of_toNat_eq h)
  omega

/-- The transition the parser selects is a row of R100 that applies. -/
theorem rowApplies_of_selectTrans {par : Params} {p : Parser} {b : Byte} {t : Trans}
    (h : selectTrans par p b = some t) : rowApplies par p b t := by
  unfold selectTrans at h
  split at h
  case h_1 hst =>
    split at h
    · next hb => cases h; exact ⟨hst, hb⟩
    · next hb => cases h; exact ⟨hst, hb⟩
  case h_2 hst => cases h; exact hst
  case h_3 hst => cases h; exact hst
  case h_4 hst => cases h; exact hst
  case h_5 hst =>
    rw [← crc8_header] at h
    split at h
    · next hb =>
      split at h
      · next he => cases h; exact ⟨hst, hb, he⟩
      · next he =>
        have he' : p.hdr[2].getLsbD 5 = false := Bool.eq_false_iff.mpr he
        split at h
        · next hn => cases h; exact ⟨hst, hb, he', hn⟩
        · next hn => cases h; exact ⟨hst, hb, he', hn⟩
    · next hb =>
      split at h
      · next hrb => cases h; exact ⟨hst, hb, hrb⟩
      · next k hrb => cases h; exact ⟨hst, hb, by simp [hrb]⟩
  case h_6 hst =>
    split at h
    · next hl =>
      split at h
      · next h1 =>
        have hn : p.remaining.toNat = 1 := by rw [h1]; rfl
        cases hc : crc16selOf p.hdr[3] <;> rw [hc] at h <;> cases h
        · exact ⟨hst, hn, hc⟩
        · exact ⟨hst, hn, hc⟩
      · next h1 => cases h; exact ⟨hst, one_lt_remaining hst hl h1⟩
    · cases h
  case h_7 hst =>
    split at h
    · next hb => cases h; exact ⟨hst, hb⟩
    · next hb => cases h; exact ⟨hst, hb⟩
  case h_8 hst => cases h; exact hst
  case h_9 hst =>
    split at h
    · next hb => cases h; exact ⟨hst, bePair_eq_iff.mp hb⟩
    · next hb => cases h; exact ⟨hst, fun he => hb (bePair_eq_iff.mpr he)⟩

/-- A parser whose counters are as R30 (d) says selects a transition (R123). -/
theorem exists_selectTrans {par : Params} {p : Parser} (hl : p.live = true) (b : Byte) :
    ∃ t, selectTrans par p b = some t :=
  Option.isSome_iff_exists.mp ((selectTrans_isSome par p b).trans hl)

/-- Settles O6: the row selected applies, and any row that applies is the one selected. -/
theorem transitionTableIsTotal : Obligations.TransitionTableIsTotal := by
  intro par p b hinv
  obtain ⟨t, ht⟩ := exists_selectTrans (par := par) hinv.live b
  refine ⟨t, ht, rowApplies_of_selectTrans ht, fun u hu => ?_⟩
  exact Option.some.inj ((selectTrans_of_rowApplies hinv.live hu).symm.trans ht)

/-! ### The rollback candidate -/

/-- Collecting one more header byte records it exactly where it is the first sync byte (R13, R106). -/
theorem earliestSync_concat (k : Cand) (b : Byte) (l : List (Cand × Byte)) :
    earliestSync (l ++ [(k, b)]) = recordCand k b (earliestSync l) := by
  induction l with
  | nil => simp [earliestSync, recordCand]
  | cons x l ih =>
    obtain ⟨k', c⟩ := x
    by_cases hc : c = Config.sync
    · simp [earliestSync, recordCand, hc]
    · simp [earliestSync, hc, ih]

/-! ### A header byte keeps the parser invariant -/

/-- A sync byte starts a header afresh, whatever the parser was before (R102). -/
theorem takeSync_inv (p : Parser) : p.takeSync.Inv where
  sync _ := by simp
  candidate := rfl
  counting hst := nomatch hst
  counted hst := by simp at hst
  short hst := nomatch hst
  long hst := by simp at hst

section
variable {p : Parser} (h : p.Inv)
include h

theorem takeAddr_inv (b : Byte) (hst : p.st = .waitAddress) : (p.takeAddr b).Inv where
  sync _ := by simpa using h.sync (by simp [hst])
  candidate := by
    have hrb : p.rb = earliestSync [] := by simpa [Parser.seen, hst] using h.candidate
    simp [Parser.seen, hrb, ← earliestSync_concat]
  counting hst := nomatch hst
  counted hst := by simp at hst
  short hst := nomatch hst
  long hst := by simp at hst

theorem takeCmd_inv (b : Byte) (hst : p.st = .waitCommand) : (p.takeCmd b).Inv where
  sync _ := by simpa using h.sync (by simp [hst])
  candidate := by
    have hrb : p.rb = earliestSync [(.k1, p.hdr[1])] := by simpa [Parser.seen, hst] using h.candidate
    simp [Parser.seen, hrb, ← earliestSync_concat]
  counting hst := nomatch hst
  counted hst := by simp at hst
  short hst := nomatch hst
  long hst := by simp at hst

theorem takeLen_inv (b : Byte) (hst : p.st = .waitDataLength) : (p.takeLen b).Inv where
  sync _ := by simpa using h.sync (by simp [hst])
  candidate := by
    have hrb : p.rb = earliestSync [(.k1, p.hdr[1]), (.k2, p.hdr[2])] := by
      simpa [Parser.seen, hst] using h.candidate
    simp [Parser.seen, hrb, ← earliestSync_concat]
  counting hst := nomatch hst
  counted hst := by simp at hst
  short hst := nomatch hst
  long hst := by simp at hst

theorem headerStep_inv (x : Byte) : (p.headerStep x).Inv := by
  unfold Parser.headerStep
  split
  · split
    · exact takeSync_inv p
    · exact h
  · next hst => exact takeAddr_inv h x hst
  · next hst => exact takeCmd_inv h x hst
  · next hst => exact takeLen_inv h x hst
  · exact h

theorem foldl_headerStep_inv (bytes : List Byte) : (bytes.foldl Parser.headerStep p).Inv := by
  induction bytes generalizing p with
  | nil => exact h
  | cons x bytes ih => exact ih (headerStep_inv h x)

end

/-- A failed header check leaves a parser that meets R30: plain return, or a replay from there (R110 to R112). -/
theorem recover_inv (b : Byte) (p : Parser) : (p.recover b).Inv := by
  unfold Parser.recover
  split
  · exact p.returnToSearch_inv
  · exact foldl_headerStep_inv p.returnToSearch_inv _

/-! ### A payload byte keeps the parser invariant -/

section
variable {p : Parser} (h : p.Inv)
include h

/-- The payload phase begins with the whole declared length to come, and that is not 0 (R109). -/
theorem beginPayload_inv (hst : p.st = .waitHeaderCrc8) (he : embeddedOf p.hdr[2] = false)
    (hn : lengthOf p.hdr[3] ≠ 0) :
    ({ p with paylen := lengthOf p.hdr[3], remaining := lengthOf p.hdr[3], st := .waitExtraData } : Parser).Inv where
  sync _ := h.sync (by simp [hst])
  candidate := by simpa [Parser.seen, hst] using h.candidate
  counting _ := by
    have hn' : (lengthOf p.hdr[3]).toNat ≠ 0 := fun e => hn (BitVec.eq_of_toNat_eq e)
    exact ⟨by show 1 ≤ (lengthOf p.hdr[3]).toNat; omega, Nat.le_refl _, rfl, he⟩
  counted hst := by simp at hst
  short hst := nomatch hst
  long hst := by simp at hst

theorem storePay_inv (b : Byte) (hst : p.st = .waitExtraData) (hn : 1 < p.remaining.toNat) : (p.storePay b).Inv where
  sync _ := h.sync (by simp [hst])
  candidate := by simpa [Parser.seen, hst] using h.candidate
  counting _ := by
    obtain ⟨h1, h2, hlen, he⟩ := h.counting hst
    have hsub : (p.storePay b).remaining.toNat = p.remaining.toNat - 1 := toNat_sub_one h1
    exact ⟨by omega, by rw [hsub]; exact Nat.le_trans (Nat.sub_le _ _) h2, hlen, he⟩
  counted hst' := by simp [hst] at hst'
  short hst' := by simp [hst] at hst'
  long hst' := by simp [hst] at hst'

/-- The last payload byte leaves none to count, and the CRC-size flag is that of the state it leads to (R114, R115). -/
theorem storeLast_inv (b : Byte) (st' : PState) (hst : p.st = .waitExtraData) (hn : p.remaining.toNat = 1)
    (hst' : st' = .waitExtraDataCrc8 ∧ crc16selOf p.hdr[3] = false ∨
      st' = .waitExtraDataCrc16a ∧ crc16selOf p.hdr[3] = true) :
    ({ p.storePay b with st := st' } : Parser).Inv := by
  obtain ⟨-, h2, -, -⟩ := h.counting hst
  have hlen : 1 ≤ p.paylen.toNat := hn ▸ h2
  have hzero : (p.storePay b).remaining = 0 := by rw [storePay_last b hn h2]
  have hcand := h.candidate
  obtain ⟨rfl, hc⟩ | ⟨rfl, hc⟩ := hst' <;>
    exact {
      sync := fun _ => h.sync (by simp [hst])
      candidate := by simpa [Parser.seen, hst] using hcand
      counting := fun e => nomatch e
      counted := fun _ => ⟨hzero, hlen⟩
      short := by simp [hc]
      long := by simp [hc] }

/-- The first CRC-16 byte changes the state and `crc_hi` alone (R118). -/
theorem holdCrcHi_inv (b : Byte) (hst : p.st = .waitExtraDataCrc16a) :
    ({ p with crcHi := b, st := .waitExtraDataCrc16b } : Parser).Inv where
  sync _ := h.sync (by simp [hst])
  candidate := by simpa [Parser.seen, hst] using h.candidate
  counting hst := nomatch hst
  counted _ := h.counted (.inr (.inl hst))
  short hst := nomatch hst
  long _ := h.long (.inl hst)

end

/-! ### Every step keeps the parser invariant -/

/-- A transition that R100 selects keeps R30 (a) to (e). -/
theorem applyTrans_inv {t : Trans} {b : Byte} {s : State} (h : s.parser.Inv)
    (ht : selectTrans s.par s.parser b = some t) : (applyTrans t b s).parser.Inv := by
  have hrow := rowApplies_of_selectTrans ht
  cases t with
  | searchSkip => exact h
  | searchSync => exact takeSync_inv s.parser
  | addr => exact takeAddr_inv h b hrow
  | cmd => exact takeCmd_inv h b hrow
  | len => exact takeLen_inv h b hrow
  | hcrcOkEmb | hcrcOkEmpty | pcrc8Ok | pcrc16bOk =>
    rw [applyTrans, complete_parser]
    exact s.parser.returnToSearch_inv
  | pcrc8Bad | pcrc16bBad => exact s.parser.returnToSearch_inv
  | hcrcOkData =>
    obtain ⟨hst, -, he, hn⟩ := hrow
    exact beginPayload_inv h hst he hn
  | hcrcBadNoroll | hcrcBadRollback => exact recover_inv b s.parser
  | dataMore => exact storePay_inv h b hrow.1 hrow.2
  | dataLast8 =>
    obtain ⟨hst, hn, hc⟩ := hrow
    exact storeLast_inv h b _ hst hn (.inl ⟨rfl, hc⟩)
  | dataLast16 =>
    obtain ⟨hst, hn, hc⟩ := hrow
    exact storeLast_inv h b _ hst hn (.inr ⟨rfl, hc⟩)
  | pcrc16a => exact holdCrcHi_inv h b hrow

theorem parseByte_inv {s : State} (h : s.parser.Inv) (b : Byte) : (parseByte s b).parser.Inv := by
  unfold parseByte
  split
  · next t ht => exact applyTrans_inv h ht
  · exact h

theorem parseBytes_inv {s : State} (h : s.parser.Inv) (bytes : List Byte) : (parseBytes bytes s).parser.Inv := by
  induction bytes generalizing s with
  | nil => exact h
  | cons b bytes ih => exact ih (parseByte_inv h b)

end Sys2Proof.Proofs
end

section
/-!
Who a step belongs to (60_exceptions.md R215): the reader with bytes, a consumer, a sender, a caller of a pure operation, or
the surroundings; what each of them leaves unchanged (10_state.md R10); and the statements about every step that follow.
-/

open Sys2Proof Sys2Proof.Machine Sys2Proof.Stated

namespace Sys2Proof.Proofs

/-! ### The frames of the agents -/

/-- `t` differs from `s` at most in what consumers own or share, and there as the read side may: packets leave the queue
from its head, counts are only taken, results are only added (R10, R192). -/
structure ReadSide (s t : State) : Prop where
  frame   : t = { s with q := t.q, notifyCount := t.notifyCount, calls := t.calls, nextCall := t.nextCall
                         choices := t.choices, out := t.out }
  queue   : t.q <:+ s.q
  count   : t.notifyCount ≤ s.notifyCount
  results : s.out <+: t.out

/-- `t` differs from `s` at most in what senders own, and the wire and the results are only added to (R192). -/
structure SendSide (s t : State) : Prop where
  frame   : t = { s with sendToken := t.sendToken, sends := t.sends, nextSend := t.nextSend, tx := t.tx, out := t.out }
  wire    : s.tx <+: t.tx
  results : s.out <+: t.out

/-- `t` differs from `s` at most in the reader's own place, the input stream, the shutdown and the environment's fields,
and what is to stay does (R24, R211 (3), R218). -/
structure Surroundings (s t : State) : Prop where
  frame : t = { s with stop := t.stop, shutdown := t.shutdown, reader := t.reader, rx := t.rx, fired := t.fired
                       now := t.now, writeFault := t.writeFault }
  stop  : s.stop = true → t.stop = true
  fired : ∀ sig ∈ s.fired, sig ∈ t.fired
  time  : s.now ≤ t.now

theorem ReadSide.refl (s : State) : ReadSide s s := ⟨rfl, List.suffix_refl _, Nat.le_refl _, List.prefix_refl _⟩

theorem SendSide.refl (s : State) : SendSide s s := ⟨rfl, List.prefix_refl _, List.prefix_refl _⟩

theorem Surroundings.refl (s : State) : Surroundings s s := ⟨rfl, id, fun _ h => h, Nat.le_refl _⟩

/-! ### The read side -/

/-- A call leaves the list of calls in progress, with a result or without. -/
theorem endCall_readSide (id : Nat) (o : Output) (s : State) : ReadSide s (output o (dropCall id s)) :=
  ⟨rfl, List.suffix_refl _, Nat.le_refl _, List.prefix_append ..⟩

theorem setCallPhase_readSide (id : Nat) (ph : CallPhase) (s : State) : ReadSide s (setCallPhase id ph s) :=
  ⟨rfl, List.suffix_refl _, Nat.le_refl _, List.prefix_refl _⟩

/-- What a filtered receive leaves is the end of the queue (R159). -/
theorem firstAccepted_suffix (role : Role) (q : List Packet) : (firstAccepted role q).2 <:+ q := by
  induction q with
  | nil => exact List.suffix_refl _
  | cons p q ih =>
    unfold firstAccepted
    split
    · exact List.suffix_cons p q
    · exact ih.trans (List.suffix_cons p q)

theorem receive_readSide (role : Role) (limit : Option Limit) (s : State) : ReadSide s (receive role limit s) := by
  obtain ⟨q', rfl, ⟨r, h⟩ | ⟨l, -, h⟩⟩ := receive_cases role limit s <;> rw [h]
  · exact ⟨rfl, firstAccepted_suffix role s.q, Nat.le_refl _, List.prefix_append ..⟩
  · exact ⟨rfl, firstAccepted_suffix role s.q, Nat.le_refl _, List.prefix_refl _⟩

theorem dequeued_readSide (s : State) : ReadSide s (output (.dequeued (tryDequeue s).1) (tryDequeue s).2) := by
  unfold tryDequeue
  split
  · exact ⟨rfl, List.suffix_refl _, Nat.le_refl _, List.prefix_append ..⟩
  · next p q hq => exact ⟨rfl, hq ▸ List.suffix_cons p q, Nat.le_refl _, List.prefix_append ..⟩

theorem waitNotifier_readSide (l : Limit) (s : State) : ReadSide s (waitNotifier l s) := by
  obtain ⟨n, ⟨-, h⟩ | ⟨-, h⟩ | ⟨-, -, h⟩⟩ := waitNotifier_cases l s <;> rw [h]
  · exact ⟨rfl, List.suffix_refl _, Nat.sub_le .., List.prefix_append ..⟩
  · exact ⟨rfl, List.suffix_refl _, Nat.le_refl _, List.prefix_append ..⟩
  · exact ⟨rfl, List.suffix_refl _, Nat.le_refl _, List.prefix_refl _⟩

theorem startReceive_readSide (role : Role) (shape : Shape) (s : State) : ReadSide s (startReceive role shape s) :=
  ⟨rfl, List.suffix_refl _, Nat.le_refl _, List.prefix_refl _⟩

theorem callStep_readSide (id : Nat) (s : State) : ReadSide s (callStep id s) := by
  obtain ⟨role, limit, -, h⟩ | h := callStep_cases id s <;> rw [h]
  · obtain ⟨p, q, hq, -, h⟩ | ⟨p, q, hq, -, h⟩ | ⟨-, -, h⟩ | ⟨l, -, -, h⟩ := receiveStep_cases id role limit s <;> rw [h]
    · exact ⟨rfl, hq ▸ List.suffix_cons p q, Nat.le_refl _, List.prefix_append ..⟩
    · exact ⟨rfl, hq ▸ List.suffix_cons p q, Nat.le_refl _, List.prefix_refl _⟩
    · exact endCall_readSide id _ s
    · exact setCallPhase_readSide id _ s
  · exact .refl s

theorem wake_readSide (id : Nat) (s : State) : ReadSide s (wake id s) := by
  obtain ⟨_, _, -, -, h⟩ | ⟨_, -, -, h⟩ | h := wake_cases id s <;> rw [h]
  · exact ⟨rfl, List.suffix_refl _, Nat.sub_le .., List.prefix_refl _⟩
  · exact ⟨rfl, List.suffix_refl _, Nat.sub_le .., List.prefix_append ..⟩
  · exact .refl s

theorem expire_readSide (id : Nat) (s : State) : ReadSide s (expire id s) := by
  obtain ⟨_, _, -, -, o, h⟩ | h := expire_cases id s <;> rw [h]
  · exact endCall_readSide id o s
  · exact .refl s

theorem abort_readSide (id : Nat) (s : State) : ReadSide s (abort id s) := by
  obtain ⟨_, _, -, -, o, h⟩ | h := abort_cases id s <;> rw [h]
  · exact endCall_readSide id o s
  · exact .refl s

/-! ### The send side -/

theorem send_sendSide (role : Role) (d : Draft) (s : State) : SendSide s (send role d s) := by
  obtain ⟨bytes, r, h⟩ | ⟨bytes, -, h⟩ := send_cases role d s <;> rw [h]
  · exact ⟨rfl, List.prefix_append .., List.prefix_append ..⟩
  · exact ⟨rfl, List.prefix_refl _, List.prefix_refl _⟩

theorem startSend_sendSide (role : Role) (d : Draft) (s : State) : SendSide s (startSend role d s) := by
  obtain ⟨r, h⟩ | ⟨p, -, -, h⟩ := startSend_cases role d s <;> rw [h]
  · exact ⟨rfl, List.prefix_refl _, List.prefix_append ..⟩
  · exact ⟨rfl, List.prefix_refl _, List.prefix_refl _⟩

theorem sendStep_sendSide (id : Nat) (s : State) : SendSide s (sendStep id s) := by
  obtain ⟨_, -, -, h⟩ | ⟨_, -, h⟩ | ⟨_, r, -, h⟩ | h := sendStep_cases id s <;> rw [h]
  · exact ⟨rfl, List.prefix_refl _, List.prefix_refl _⟩
  · exact ⟨rfl, List.prefix_append .., List.prefix_refl _⟩
  · exact ⟨rfl, List.prefix_refl _, List.prefix_append ..⟩
  · exact .refl s

/-! ### The surroundings -/

theorem arrive_surroundings (bytes : List Byte) (s : State) : Surroundings s (arrive bytes s) :=
  ⟨rfl, id, fun _ h => h, Nat.le_refl _⟩

theorem readerMoved_surroundings (r : Reader) (rx : List Byte) (s : State) :
    Surroundings s { s with reader := r, rx := rx } := ⟨rfl, id, fun _ h => h, Nat.le_refl _⟩

theorem beginShutdown_surroundings (s : State) : Surroundings s (beginShutdown s) :=
  ⟨rfl, fun _ => rfl, fun _ h => h, Nat.le_refl _⟩

theorem closeStream_surroundings (s : State) : Surroundings s (closeStream s) := by
  unfold closeStream
  split
  · split
    · exact ⟨rfl, id, fun _ h => h, Nat.le_refl _⟩
    · exact .refl s
  · exact .refl s

theorem fire_surroundings (sig : Nat) (s : State) : Surroundings s (fire sig s) := by
  unfold fire
  split
  · exact .refl s
  · exact ⟨rfl, id, fun _ h => List.mem_append_left _ h, Nat.le_refl _⟩

/-! ### Every step is one agent's -/

/-- The steps and operations of consumers (R153 to R161). -/
inductive ReadMove (s : State) : State → Prop where
  | received (role : Role) (limit : Option Limit) : ReadMove s (receive role limit s)
  | dequeued : ReadMove s (output (.dequeued (tryDequeue s).1) (tryDequeue s).2)
  | begun (role : Role) (shape : Shape) : ReadMove s (startReceive role shape s)
  | called (id : Nat) : ReadMove s (callStep id s)
  | woken (id : Nat) : ReadMove s (wake id s)
  | expired (id : Nat) : ReadMove s (expire id s)
  | aborted (id : Nat) : ReadMove s (abort id s)

/-- The steps and operations of senders (R189). -/
inductive SendMove (s : State) : State → Prop where
  | sent (role : Role) (d : Draft) : SendMove s (send role d s)
  | begun (role : Role) (d : Draft) : SendMove s (startSend role d s)
  | line (id : Nat) : SendMove s (sendStep id s)

theorem ReadMove.readSide {s t : State} (h : ReadMove s t) : ReadSide s t := by
  cases h with
  | received role limit => exact receive_readSide role limit s
  | dequeued => exact dequeued_readSide s
  | begun role shape => exact startReceive_readSide role shape s
  | called id => exact callStep_readSide id s
  | woken id => exact wake_readSide id s
  | expired id => exact expire_readSide id s
  | aborted id => exact abort_readSide id s

theorem SendMove.sendSide {s t : State} (h : SendMove s t) : SendSide s t := by
  cases h with
  | sent role d => exact send_sendSide role d s
  | begun role d => exact startSend_sendSide role d s
  | line id => exact sendStep_sendSide id s

/-- Whose move it is: the reader's, with bytes through the parser; a consumer's; a sender's; that of a caller who gets a value
that is no receive's; or one of the surroundings (R215). -/
inductive Agent (s : State) : State → Prop where
  | parsed (bytes : List Byte) (r : Reader) : Agent s (parseBytes bytes { s with reader := r })
  | consumer (t : State) (h : ReadMove s t) : Agent s t
  | sender (t : State) (h : SendMove s t) : Agent s t
  | caller (o : Output) (h : o.Plain) : Agent s (output o s)
  | around (t : State) (h : Surroundings s t) : Agent s t

/-- The transition R100 selects for a byte is the parser step of that byte. -/
theorem applyTrans_eq_parseByte {t : Trans} {b : Byte} {s : State} (h : selectTrans s.par s.parser b = some t) :
    applyTrans t b s = parseByte s b := by
  simp only [parseByte, h]

theorem effect_agent {s t : State} (h : Effect s t) : Agent s t := by
  cases h with
  | frame bytes => exact .parsed bytes .between
  | transition tr b r _ ht =>
    rw [applyTrans_eq_parseByte (s := { s with reader := r }) ht]
    exact .parsed [b] r
  | arrived bytes => exact .around _ (arrive_surroundings bytes s)
  | answer o ho => exact .caller o ho
  | received role limit => exact .consumer _ (.received role limit)
  | sent role d => exact .sender _ (.sent role d)
  | stopped => exact .around _ (beginShutdown_surroundings s)
  | dequeued => exact .consumer _ .dequeued

theorem move_agent {s t : State} (h : Move s t) : Agent s t := by
  cases h with
  | run t he => exact effect_agent he
  | begun role shape => exact .consumer _ (.begun role shape)
  | sendBegun role d => exact .sender _ (.begun role d)
  | called id => exact .consumer _ (.called id)
  | woken id => exact .consumer _ (.woken id)
  | expired id => exact .consumer _ (.expired id)
  | aborted id => exact .consumer _ (.aborted id)
  | sendLine id => exact .sender _ (.line id)
  | readerMoved r rx => exact .around _ (readerMoved_surroundings r rx s)
  | fired sig => exact .around _ (fire_surroundings sig s)
  | elapsed d => exact .around _ ⟨rfl, id, fun _ h => h, Nat.le_add_right ..⟩
  | faulted f => exact .around _ ⟨rfl, id, fun _ h => h, Nat.le_refl _⟩
  | closed => exact .around _ (closeStream_surroundings s)

/-- Every step is one agent's, on the state without the agenda entry it takes. -/
theorem step_agent {s t : State} (h : step s = .next t) : ∃ rest, Agent { s with agenda := rest } t := by
  obtain ⟨rest, hm⟩ := step_move h
  exact ⟨rest, move_agent hm⟩

/-! ### Statements about every step -/

/-- Settles O55: bytes through the parser keep R30 (a) to (e), and no other agent touches the parser. -/
theorem stepKeepsParserInvariant : Obligations.StepKeepsParserInvariant := by
  intro s t hinv hstep
  obtain ⟨rest, ha⟩ := step_agent hstep
  cases ha with
  | parsed bytes r => exact parseBytes_inv (s := { s with reader := r, agenda := rest }) hinv bytes
  | consumer t h => rw [congrArg State.parser h.readSide.frame]; exact hinv
  | sender t h => rw [congrArg State.parser h.sendSide.frame]; exact hinv
  | caller o => exact hinv
  | around t h => rw [congrArg State.parser h.frame]; exact hinv

end Sys2Proof.Proofs
end

section
/-!
Bytes through the parser: what they can add to the shared state, whole frames from search to search (30_encoding.md R60 to
R68, 41_parser.md R101 to R124), and the round trip of an encoded Packet (44_encoder_send.md R187).
-/

open Sys2Proof Sys2Proof.Machine Sys2Proof.Stated

namespace Sys2Proof.Proofs

/-! ### What bytes add to the shared state -/

theorem emit_of_classify {a f : Byte} {pl : Payload} {p : Packet} (h : classify ⟨a, f, pl⟩ = some p) (s : State) :
    emit a f pl s = enqueue p s := by
  simp only [emit, h]

theorem emit_of_classify_none {a f : Byte} {pl : Payload} (h : classify ⟨a, f, pl⟩ = none) (s : State) :
    emit a f pl s = s := by
  simp only [emit, h]

/-- A transition that is no completion of a frame changes the parser alone; the others emit once. -/
theorem applyTrans_cases (t : Trans) (b : Byte) (s : State) :
    (∃ p, applyTrans t b s = { s with parser := p }) ∨ ∃ pl, applyTrans t b s = complete pl s := by
  cases t with
  | hcrcOkEmb | hcrcOkEmpty | pcrc8Ok | pcrc16bOk => exact .inr ⟨_, rfl⟩
  | searchSkip => exact .inl ⟨s.parser, rfl⟩
  | _ => exact .inl ⟨_, rfl⟩

/-- A parser step changes the parser, and beyond it only by enqueueing a valid Packet (R121, R124, R139). -/
theorem parseByte_cases (s : State) (b : Byte) :
    (∃ p, parseByte s b = { s with parser := p }) ∨
      ∃ x p, x.valid = true ∧ parseByte s b = { enqueue x s with parser := p } := by
  unfold parseByte
  split
  · next t _ =>
    obtain h | ⟨pl, h⟩ := applyTrans_cases t b s
    · exact .inl h
    · obtain ⟨x, -, hx, he⟩ | ⟨-, he⟩ := emit_cases s.parser.hdr[1] s.parser.hdr[2] pl s <;>
        rw [h, complete, he]
      · exact .inr ⟨x, _, hx, rfl⟩
      · exact .inl ⟨_, rfl⟩
  · exact .inl ⟨s.parser, rfl⟩

/-- Settles O18: the one Packet a byte can enqueue is a valid one, and it is appended or lost. -/
theorem byteQueuesAtMostOnePacket : Obligations.ByteQueuesAtMostOnePacket := by
  intro s b
  obtain ⟨p, h⟩ | ⟨x, p, hx, h⟩ := parseByte_cases s b <;> rw [h]
  · exact .inl rfl
  · obtain ⟨-, he⟩ | ⟨-, he⟩ := enqueue_cases x s <;> rw [he]
    · exact .inr ⟨x, hx, rfl⟩
    · exact .inl rfl

/-- What consumers see of the parser's work grows, step by step: queue, notifier and overflow (R150 to R152). -/
structure Grows (s t : State) : Prop where
  queue    : s.q <+: t.q
  count    : s.notifyCount ≤ t.notifyCount
  overflow : s.overflow = true → t.overflow = true

theorem Grows.trans {s t u : State} (h : Grows s t) (h' : Grows t u) : Grows s u :=
  ⟨h.queue.trans h'.queue, h.count.trans h'.count, h'.overflow ∘ h.overflow⟩

theorem enqueue_grows (x : Packet) (s : State) : Grows s (enqueue x s) := by
  obtain ⟨-, h⟩ | ⟨-, h⟩ := enqueue_cases x s <;> rw [h]
  · refine ⟨List.prefix_append .., ?_, id⟩
    show s.notifyCount ≤ if s.notifyCount < s.par.notifyCap then s.notifyCount + 1 else s.notifyCount
    split <;> omega
  · exact ⟨List.prefix_refl _, Nat.le_refl _, fun _ => rfl⟩

theorem parseByte_grows (s : State) (b : Byte) : Grows s (parseByte s b) := by
  obtain ⟨p, h⟩ | ⟨x, p, -, h⟩ := parseByte_cases s b <;> rw [h]
  · exact ⟨List.prefix_refl _, Nat.le_refl _, id⟩
  · exact ⟨(enqueue_grows x s).queue, (enqueue_grows x s).count, (enqueue_grows x s).overflow⟩

theorem parseBytes_grows (bytes : List Byte) (s : State) : Grows s (parseBytes bytes s) := by
  induction bytes generalizing s with
  | nil => exact ⟨List.prefix_refl _, Nat.le_refl _, id⟩
  | cons b bytes ih => exact (parseByte_grows s b).trans (ih _)

/-- Where bytes change nothing but the parser, no beginning of them changed anything else. -/
theorem silent_of_prefix {xs ys : List Byte} {s : State} {p : Parser}
    (h : parseBytes (xs ++ ys) s = { s with parser := p }) :
    parseBytes xs s = { s with parser := (parseBytes xs s).parser } := by
  have hto := parseBytes_grows xs s
  have hfrom := parseBytes_grows ys (parseBytes xs s)
  rw [← parseBytes_append, h] at hfrom
  have hq : (parseBytes xs s).q = s.q := hfrom.queue.eq_of_length_le hto.queue.length_le
  have hn : (parseBytes xs s).notifyCount = s.notifyCount := Nat.le_antisymm hfrom.count hto.count
  have ho : (parseBytes xs s).overflow = s.overflow := Bool.eq_iff_iff.mpr ⟨hfrom.overflow, hto.overflow⟩
  have hw : WriteDomain s (parseBytes xs s) := parseBytes_writeDomain xs s
  rwa [WriteDomain, hq, hn, ho] at hw

/-- Emission takes no notice of the parser and the reader, and leaves them (R121). -/
theorem emit_withParser (a f : Byte) (pl : Payload) (s : State) (p : Parser) (r : Reader) :
    emit a f pl { s with parser := p, reader := r } = { emit a f pl s with parser := p, reader := r } := by
  unfold emit
  split
  · unfold enqueue
    split <;> rfl
  · rfl

theorem emit_reader (a f : Byte) (pl : Payload) (s : State) : (emit a f pl s).reader = s.reader := by
  have h := emit_writeDomain a f pl s
  rw [WriteDomain] at h
  rw [h]

/-! ### Rows of R100 as parser steps -/

/-- A byte for which a row of R100 applies does what that row says. -/
theorem parseByte_of_row {s : State} {b : Byte} {t : Trans} (hl : s.parser.live = true)
    (h : rowApplies s.par s.parser b t) : parseByte s b = applyTrans t b s := by
  simp only [parseByte, selectTrans_of_rowApplies hl h]

/-- The parser after a sync byte and three header bytes in search (R102 to R106). -/
def withHeader (a f b3 : Byte) (p : Parser) : Parser := (((p.takeSync.takeAddr a).takeCmd f).takeLen b3)

@[simp] theorem withHeader_st (a f b3 : Byte) (p : Parser) : (withHeader a f b3 p).st = .waitHeaderCrc8 := rfl

@[simp] theorem withHeader_hdr (a f b3 : Byte) (p : Parser) :
    (withHeader a f b3 p).hdr = #v[Config.sync, a, f, b3] := by
  ext i hi
  match i, hi with
  | 0, _ | 1, _ | 2, _ | 3, _ => simp [withHeader]

theorem parseBytes_header {s : State} (hst : s.parser.st = .searchHeader) (a f b3 : Byte) :
    parseBytes [Config.sync, a, f, b3] s = { s with parser := withHeader a f b3 s.parser } := by
  have hsync : parseByte s Config.sync = onParser Parser.takeSync s :=
    parseByte_of_row (t := .searchSync) (live_of_st_ne (by simp [hst])) ⟨hst, rfl⟩
  simp only [parseBytes_cons, parseBytes_nil, hsync]
  rfl

/-! ### From search to a matching header check -/

/-- The state in search after a record was emitted, or after nothing was. -/
def BackInSearch (s t : State) : Prop :=
  ∃ p, p.st = .searchHeader ∧ p.rb = none ∧ t = { s with parser := p }

/-- Completing a frame emits its record and leaves the parser in search (R107, R108, R116, R119, R122). -/
theorem complete_backInSearch (pl : Payload) (s : State) (p : Parser) :
    BackInSearch (emit p.hdr[1] p.hdr[2] pl s) (complete pl { s with parser := p }) := by
  refine ⟨p.returnToSearch, rfl, rfl, ?_⟩
  have h := emit_withParser p.hdr[1] p.hdr[2] pl s p s.reader
  show onParser Parser.returnToSearch (emit p.hdr[1] p.hdr[2] pl { s with parser := p, reader := s.reader }) = _
  rw [h, ← emit_reader p.hdr[1] p.hdr[2] pl s]
  rfl

section
variable {s : State} (hst : s.parser.st = .searchHeader) (h : Head) (e : Bool) (b3 : Byte)
include hst

/-- The four bytes before the header check only fill the header. -/
theorem parseBytes_headerBytes :
    parseBytes (headerBytes s.par h e b3) s =
      parseByte { s with parser := withHeader h.addr (flagsByte h.origin h.role e h.command) b3 s.parser }
        (crc8 s.par [Config.sync, h.addr, flagsByte h.origin h.role e h.command, b3]) := by
  rw [headerBytes, parseBytes_append, parseBytes_header hst]
  rfl

/-- The fifth byte runs the row that the header selects. -/
theorem parseBytes_headerBytes_of_row {t : Trans}
    (hrow : ∀ p : Parser, p.st = .waitHeaderCrc8 →
      p.hdr = #v[Config.sync, h.addr, flagsByte h.origin h.role e h.command, b3] →
      rowApplies s.par p (crc8 s.par (header p)) t) :
    parseBytes (headerBytes s.par h e b3) s =
      applyTrans t (crc8 s.par [Config.sync, h.addr, flagsByte h.origin h.role e h.command, b3])
        { s with parser := withHeader h.addr (flagsByte h.origin h.role e h.command) b3 s.parser } := by
  rw [parseBytes_headerBytes hst]
  have hr := hrow _ (withHeader_st h.addr _ b3 s.parser) (withHeader_hdr h.addr _ b3 s.parser)
  simp only [header, withHeader_hdr] at hr
  exact parseByte_of_row (live_of_st_ne (by simp)) hr

end

/-! ### The payload phase -/

/-- In the payload phase, under the header `hdr`, `got` is stored and as many bytes as `todo` are still to come. -/
structure Collecting (p : Parser) (hdr : Vector Byte 4) (got todo : List Byte) : Prop where
  st        : p.st = .waitExtraData
  hdr       : p.hdr = hdr
  paylen    : p.paylen.toNat = got.length + todo.length
  remaining : p.remaining.toNat = todo.length
  pay       : p.pay.toList.take got.length = got

/-- In a checksum state, under the header `hdr`, `got` is stored. -/
structure Collected (p : Parser) (hdr : Vector Byte 4) (got : List Byte) : Prop where
  st      : p.st = if crc16selOf hdr[3] then .waitExtraDataCrc16a else .waitExtraDataCrc8
  hdr     : p.hdr = hdr
  payload : p.payload.val = got

/-- Storing at the end of what is stored appends to it. -/
theorem take_succ_set {l : List Byte} {i : Nat} (hi : i < l.length) (b : Byte) :
    (l.set i b).take (i + 1) = l.take i ++ [b] := by
  rw [List.take_add_one, List.take_set_of_le (Nat.le_refl i), List.getElem?_set_self hi]
  rfl

section
variable {p : Parser} {hdr : Vector Byte 4} {got todo : List Byte} {b : Byte}

theorem Collecting.live (h : Collecting p hdr got (b :: todo)) : p.live = true := by
  have hn : ¬ p.remaining = 0#7 := fun e => by simpa [e] using h.remaining
  have hle : p.remaining.toNat ≤ p.paylen.toNat := by rw [h.remaining, h.paylen]; omega
  simp [Parser.live, hn, hle]

/-- A payload byte goes behind those that are stored (R113 to R115). -/
theorem Collecting.storePay (h : Collecting p hdr got (b :: todo)) :
    (p.storePay b).remaining.toNat = todo.length ∧ (p.storePay b).pay.toList.take (got ++ [b]).length = got ++ [b] := by
  have hr : p.remaining.toNat = todo.length + 1 := h.remaining
  have hlen : p.paylen.toNat = got.length + (todo.length + 1) := h.paylen
  have hbound := p.paylen.isLt
  have hi : got.length < p.pay.toList.length := by rw [Vector.length_toList]; omega
  have hindex : p.paylen.toNat - p.remaining.toNat = got.length := by omega
  rw [storePay_eq b (by omega) (by omega), hindex]
  refine ⟨?_, ?_⟩
  · show (BitVec.ofNat 7 (p.remaining.toNat - 1)).toNat = todo.length
    rw [BitVec.toNat_ofNat]
    omega
  · show (p.pay.setIfInBounds got.length b).toList.take (got ++ [b]).length = got ++ [b]
    rw [Vector.toList_setIfInBounds, List.length_append, List.length_singleton, take_succ_set hi, h.pay]

theorem Collecting.more (h : Collecting p hdr got (b :: todo)) : Collecting (p.storePay b) hdr (got ++ [b]) todo where
  st := h.st
  hdr := h.hdr
  paylen := by
    have hlen : p.paylen.toNat = got.length + (todo.length + 1) := h.paylen
    simp only [Parser.storePay_paylen, List.length_append, List.length_singleton]
    omega
  remaining := h.storePay.1
  pay := h.storePay.2

/-- After the last byte the whole payload is stored, and the CRC-size flag selects the checksum state (R114, R115). -/
theorem Collecting.last (h : Collecting p hdr got [b]) :
    Collected { p.storePay b with st := if crc16selOf hdr[3] then .waitExtraDataCrc16a else .waitExtraDataCrc8 } hdr
      (got ++ [b]) where
  st := rfl
  hdr := h.hdr
  payload := by
    have hlen : p.paylen.toNat = (got ++ [b]).length := by simpa using h.paylen
    show (p.storePay b).pay.toList.take p.paylen.toNat = got ++ [b]
    rw [hlen]
    exact h.storePay.2

end

/-- The bytes of a payload are stored in order, and nothing else changes (R113 to R115). -/
theorem parseBytes_payload {hdr : Vector Byte 4} {got todo : List Byte} {s : State} (hne : todo ≠ [])
    (h : Collecting s.parser hdr got todo) :
    ∃ p, parseBytes todo s = { s with parser := p } ∧ Collected p hdr (got ++ todo) := by
  induction todo generalizing got s with
  | nil => exact absurd rfl hne
  | cons b todo ih =>
    have hl := h.live
    rw [parseBytes_cons]
    cases todo with
    | nil =>
      have hlast := h.last
      have hn : s.parser.remaining.toNat = 1 := h.remaining
      cases hc : crc16selOf hdr[3] <;> rw [hc] at hlast <;> refine ⟨_, ?_, hlast⟩
      · exact parseByte_of_row (t := .dataLast8) hl ⟨h.st, hn, h.hdr ▸ hc⟩
      · exact parseByte_of_row (t := .dataLast16) hl ⟨h.st, hn, h.hdr ▸ hc⟩
    | cons c todo =>
      have hn : 1 < s.parser.remaining.toNat := by rw [h.remaining]; simp
      have hb : parseByte s b = { s with parser := s.parser.storePay b } :=
        parseByte_of_row (t := .dataMore) hl ⟨h.st, hn⟩
      obtain ⟨p, hp, hcol⟩ := ih (s := { s with parser := s.parser.storePay b }) (by simp) h.more
      exact ⟨p, hb ▸ hp, by simpa using hcol⟩

/-! ### The trailing checksum -/

section
variable {s : State} {p : Parser} {hdr : Vector Byte 4} {pl : Payload} (h : Collected p hdr pl.val)
include h

theorem Collected.payload_eq : p.payload = pl := Subtype.ext h.payload

/-- The one trailing byte of form `CRC8` (R116, R117). -/
theorem parseByte_sum8 (hc : crc16selOf hdr[3] = false) (sum : Byte) :
    BackInSearch (if sum = crc8 s.par pl.val then emit hdr[1] hdr[2] pl s else s)
      (parseByte { s with parser := p } sum) := by
  have hst : p.st = .waitExtraDataCrc8 := by simpa [hc] using h.st
  have hl : p.live = true := live_of_st_ne (by simp [hst])
  have hpl := h.payload_eq
  by_cases hs : sum = crc8 s.par pl.val
  · rw [if_pos hs, parseByte_of_row (t := .pcrc8Ok) hl ⟨hst, by rw [hs, stored_eq_payload, hpl]⟩, applyTrans, hpl,
      ← h.hdr]
    exact complete_backInSearch pl s p
  · rw [if_neg hs, parseByte_of_row (t := .pcrc8Bad) hl ⟨hst, by rw [stored_eq_payload, hpl]; exact hs⟩]
    exact ⟨p.returnToSearch, rfl, rfl, rfl⟩

/-- The first trailing byte of form `CRC16` is held (R118). -/
theorem parseByte_high (hc : crc16selOf hdr[3] = true) (b : Byte) :
    parseByte { s with parser := p } b = { s with parser := { p with crcHi := b, st := .waitExtraDataCrc16b } } := by
  have hst : p.st = .waitExtraDataCrc16a := by simpa [hc] using h.st
  exact parseByte_of_row (t := .pcrc16a) (live_of_st_ne (by simp [hst])) hst

/-- The second one is compared with it (R119, R120). -/
theorem parseByte_sum16 (sum : Word16) :
    BackInSearch (if sum = crc16 s.par pl.val then emit hdr[1] hdr[2] pl s else s)
      (parseByte { s with parser := { p with crcHi := highByte sum, st := .waitExtraDataCrc16b } } (lowByte sum)) := by
  have hpl : ({ p with crcHi := highByte sum, st := .waitExtraDataCrc16b } : Parser).payload = pl := h.payload_eq
  have hsum : (highByte sum).toNat * 256 + (lowByte sum).toNat = (crc16 s.par pl.val).toNat ↔
      sum = crc16 s.par pl.val := by
    rw [← bePair_eq_iff, bePair_high_low]
  by_cases hs : sum = crc16 s.par pl.val
  · rw [if_pos hs, parseByte_of_row (t := .pcrc16bOk) (live_of_st_ne (by simp))
      ⟨rfl, by rw [stored_eq_payload, hpl]; exact hsum.mpr hs⟩, applyTrans, hpl, ← h.hdr]
    exact complete_backInSearch pl s _
  · rw [if_neg hs, parseByte_of_row (t := .pcrc16bBad) (live_of_st_ne (by simp))
      ⟨rfl, by rw [stored_eq_payload, hpl]; exact fun e => hs (hsum.mp e)⟩]
    exact ⟨_, rfl, rfl, rfl⟩

end

/-! ### Whole frames -/

section
variable {s : State} (hst : s.parser.st = .searchHeader) (h : Head)
include hst

theorem parseBytes_emb (d : Byte) :
    BackInSearch (emit h.addr (flagsByte h.origin h.role true h.command) (Payload.one d) s)
      (parseBytes (embBytes s.par h d) s) := by
  rw [embBytes, parseBytes_headerBytes_of_row hst h true d (t := .hcrcOkEmb)
    fun p hp hh => ⟨hp, rfl, by rw [hh]; exact embeddedOf_flagsByte ..⟩]
  simpa [applyTrans] using complete_backInSearch (Payload.one d) s (withHeader h.addr _ d s.parser)

theorem parseBytes_empty (c : Bool) :
    BackInSearch (emit h.addr (flagsByte h.origin h.role false h.command) Payload.empty s)
      (parseBytes (emptyBytes s.par h c) s) := by
  rw [emptyBytes, parseBytes_headerBytes_of_row hst h false _ (t := .hcrcOkEmpty)
    fun p hp hh => ⟨hp, rfl, by rw [hh]; exact embeddedOf_flagsByte .., by rw [hh]; exact lengthOf_lengthByte ..⟩]
  simpa [applyTrans] using complete_backInSearch Payload.empty s (withHeader h.addr _ _ s.parser)

/-- The header and the payload of a long frame change the parser alone (R109, R113 to R115). -/
theorem parseBytes_header_payload (c : Bool) (pl : Payload) (hpl : pl.val ≠ []) :
    ∃ p, parseBytes (headerBytes s.par h false (lengthByte c (BitVec.ofNat 7 pl.val.length)) ++ pl.val) s =
        { s with parser := p } ∧
      Collected p #v[Config.sync, h.addr, flagsByte h.origin h.role false h.command,
        lengthByte c (BitVec.ofNat 7 pl.val.length)] pl.val := by
  rw [parseBytes_append, parseBytes_headerBytes_of_row hst h false _ (t := .hcrcOkData)
    fun p hp hh => ⟨hp, rfl, by rw [hh]; exact embeddedOf_flagsByte ..,
      by rw [hh]; show lengthOf (lengthByte c _) ≠ 0; rw [lengthOf_lengthByte]; exact length_ne_zero hpl⟩]
  have hlen : (lengthOf (lengthByte c (BitVec.ofNat 7 pl.val.length))).toNat = pl.val.length := by
    rw [lengthOf_lengthByte, Payload.toNat_length]
  exact parseBytes_payload (got := []) hpl {
    st := rfl
    hdr := withHeader_hdr ..
    paylen := by simpa [applyTrans] using hlen
    remaining := by simpa [applyTrans] using hlen
    pay := rfl }

theorem parseBytes_crc8 (pl : Payload) (hpl : pl.val ≠ []) (sum : Byte) :
    BackInSearch
      (if sum = crc8 s.par pl.val then emit h.addr (flagsByte h.origin h.role false h.command) pl s else s)
      (parseBytes (crc8Bytes s.par h pl sum) s) := by
  obtain ⟨p, hp, hcol⟩ := parseBytes_header_payload hst h false pl hpl
  rw [crc8Bytes, parseBytes_append, hp]
  exact parseByte_sum8 hcol (crc16selOf_lengthByte ..) sum

theorem parseBytes_crc16 (pl : Payload) (hpl : pl.val ≠ []) (sum : Word16) :
    BackInSearch
      (if sum = crc16 s.par pl.val then emit h.addr (flagsByte h.origin h.role false h.command) pl s else s)
      (parseBytes (crc16Bytes s.par h pl sum) s) := by
  obtain ⟨p, hp, hcol⟩ := parseBytes_header_payload hst h true pl hpl
  rw [crc16Bytes, parseBytes_append, hp, parseBytes_cons, parseByte_high hcol (crc16selOf_lengthByte ..)]
  exact parseByte_sum16 hcol sum

end

end Sys2Proof.Proofs
end

section
/-!
Frames as instructions (30_encoding.md R60, R74), the round trip of an encoded Packet (44_encoder_send.md R187), and the
reader's own steps, one a byte (70_reset_and_hazards.md R233).
-/

open Sys2Proof Sys2Proof.Machine Sys2Proof.Stated

namespace Sys2Proof.Proofs

/-! ### The parser and the reader's place -/

/-- `s` with the reader at another place: what its read holds, what waits on the input stream, who moves next. -/
def placed (r : Reader) (rx : List Byte) (agenda : List Event) (s : State) : State :=
  { s with reader := r, rx := rx, agenda := agenda }

/-- The parser takes no notice of the reader's place, and leaves it (R10). -/
theorem parseByte_placed (r : Reader) (rx : List Byte) (agenda : List Event) (s : State) (b : Byte) :
    parseByte (placed r rx agenda s) b = placed r rx agenda (parseByte s b) := by
  have honto : parseByte (placed r rx agenda s) b = (parseByte s b).onto (placed r rx agenda s) :=
    parseByte_onto (s := s) (u := placed r rx agenda s) b rfl
  have hw := parseByte_writeDomain s b
  rw [WriteDomain] at hw
  rw [honto, hw]
  rfl

theorem parseBytes_placed (r : Reader) (rx : List Byte) (agenda : List Event) (bytes : List Byte) (s : State) :
    parseBytes bytes (placed r rx agenda s) = placed r rx agenda (parseBytes bytes s) := by
  induction bytes generalizing s with
  | nil => rfl
  | cons b bytes ih => rw [parseBytes_cons, parseByte_placed, ih, parseBytes_cons]

theorem parseBytes_reader (r : Reader) (bytes : List Byte) (s : State) :
    parseBytes bytes { s with reader := r } = { parseBytes bytes s with reader := r } := by
  have h := parseBytes_placed r s.rx s.agenda bytes s
  have hw := parseBytes_writeDomain bytes s
  rw [WriteDomain] at hw
  rw [hw] at h ⊢
  exact h

/-! ### The reader that is free -/

/-- The statements' `ready` is the model's test (R40, R233, R234). -/
theorem readerFree_iff {s : State} : readerFree s = true ↔ ready s := by
  cases hr : s.reader <;> simp [readerFree, ready, hr, and_assoc]

/-- A frame instruction is the arrival of its frame's bytes. -/
theorem exec_frame {s : State} {i : Instr} {bytes : List Byte} (h : frameBytes s.par i bytes) :
    exec i s = receiveFrame bytes s := by
  cases i with
  | frameEmb | frameEmpty | frameCrc8 | frameCrc16 => cases h; rfl
  | _ => exact h.elim

theorem receiveFrame_of_ready {s : State} (hr : ready s) (hl : s.parser.live = true) (bytes : List Byte) :
    receiveFrame bytes s = .next { parseBytes bytes s with reader := .between } := by
  rw [receiveFrame, if_pos (readerFree_iff.mpr hr), if_pos hl, parseBytes_reader]

theorem receiveFrame_of_not_ready {s : State} (hr : ¬ ready s) (bytes : List Byte) :
    receiveFrame bytes s = .next (arrive bytes s) := by
  rw [receiveFrame, if_neg (fun hf => hr (readerFree_iff.mp hf))]

/-! ### A frame from search -/

/-- A frame whose bytes lead from search back to search, as an instruction: the reader is between reads afterwards. -/
theorem receiveFrame_of_search {s t : State} {bytes : List Byte} (hr : ready s) (hst : s.parser.st = .searchHeader)
    (h : BackInSearch t (parseBytes bytes s)) :
    ∃ p, p.st = .searchHeader ∧ p.rb = none ∧
      receiveFrame bytes s = .next { t with parser := p, reader := .between } := by
  obtain ⟨p, hp, hrb, h⟩ := h
  exact ⟨p, hp, hrb, by rw [receiveFrame_of_ready hr (live_of_st_ne (by simp [hst])), h]⟩

/-- Settles O19: the header check completes the frame. -/
theorem shortFrameIsReceived : Obligations.ShortFrameIsReceived := fun _ h d c hr hst =>
  ⟨receiveFrame_of_search hr hst (parseBytes_emb hst h d), receiveFrame_of_search hr hst (parseBytes_empty hst h c)⟩

/-- Settles O20: the trailing checksum decides whether the record is emitted. -/
theorem longFrameIsReceived : Obligations.LongFrameIsReceived := fun _ h pl sum8 sum16 hr hst hpl =>
  ⟨receiveFrame_of_search hr hst (parseBytes_crc8 hst h pl hpl sum8),
    receiveFrame_of_search hr hst (parseBytes_crc16 hst h pl hpl sum16)⟩

/-! ### Non-canonical frames -/

/-- The embedded bit is no part of the Packet, so it makes no difference to what is emitted (R131). -/
theorem emit_embedded (a : Byte) (o : Origin) (r : Bool) (c : BitVec 5) (pl : Payload) (s : State) :
    emit a (flagsByte o r true c) pl s = emit a (flagsByte o r false c) pl s := by
  have hextract : FrameRecord.extract ⟨a, flagsByte o r true c, pl⟩ =
      FrameRecord.extract ⟨a, flagsByte o r false c, pl⟩ := by
    simp [FrameRecord.extract]
  simp only [emit, classify, hextract]

/-- What consumers see after a frame that ends in search: what emission of its record gives where the reader takes it, and
what they saw before where its bytes wait. -/
theorem receiveFrame_shared {s t u : State} {bytes : List Byte} (hst : s.parser.st = .searchHeader)
    (h : BackInSearch u (parseBytes bytes s)) (ht : receiveFrame bytes s = .next t) :
    (t.q, t.notifyCount, t.overflow) =
      if readerFree s then (u.q, u.notifyCount, u.overflow) else (s.q, s.notifyCount, s.overflow) := by
  by_cases hf : readerFree s = true
  · obtain ⟨p, -, -, hp⟩ := receiveFrame_of_search (readerFree_iff.mp hf) hst h
    cases hp.symm.trans ht
    rw [if_pos hf]
  · cases (receiveFrame_of_not_ready (fun hr => hf (readerFree_iff.mpr hr)) bytes).symm.trans ht
    rw [if_neg hf]
    rfl

/-- Two frames that emit the same leave the same for the consumers to see. -/
theorem shared_of_same_emission {s t u e : State} {xs ys : List Byte} (hst : s.parser.st = .searchHeader)
    (hx : BackInSearch e (parseBytes xs s)) (hy : BackInSearch e (parseBytes ys s))
    (ht : receiveFrame xs s = .next t) (hu : receiveFrame ys s = .next u) :
    t.q = u.q ∧ t.notifyCount = u.notifyCount ∧ t.overflow = u.overflow := by
  simpa using (receiveFrame_shared hst hx ht).trans (receiveFrame_shared hst hy hu).symm

section
variable {s : State} (hst : s.parser.st = .searchHeader) (h : Head) {pl : Payload} (hpl : pl.val ≠ [])
include hst hpl

/-- A long frame with the right checksum emits its payload. -/
theorem parseBytes_crc8_match :
    BackInSearch (emit h.addr (flagsByte h.origin h.role false h.command) pl s)
      (parseBytes (crc8Bytes s.par h pl (crc8 s.par pl.val)) s) := by
  simpa using parseBytes_crc8 hst h pl hpl (crc8 s.par pl.val)

theorem parseBytes_crc16_match :
    BackInSearch (emit h.addr (flagsByte h.origin h.role false h.command) pl s)
      (parseBytes (crc16Bytes s.par h pl (crc16 s.par pl.val)) s) := by
  simpa using parseBytes_crc16 hst h pl hpl (crc16 s.par pl.val)

end

/-- Settles O21: the twins emit the same record, but for the embedded bit, which no Packet has. -/
theorem nonCanonicalFormsAreEquivalent : Obligations.NonCanonicalFormsAreEquivalent := by
  intro s t u h pl hst
  refine ⟨fun c _ ht hu => ?_, fun b hb ht hu => ?_, fun hpl ht hu => ?_⟩
  · exact shared_of_same_emission hst (parseBytes_empty hst h false) (parseBytes_empty hst h c) ht hu
  · have hpl : pl.val ≠ [] := by simp [hb]
    have hone := parseBytes_emb hst h b
    rw [emit_embedded, show Payload.one b = pl from Subtype.ext hb.symm] at hone
    obtain hu | hu := hu
    · exact shared_of_same_emission hst hone (parseBytes_crc8_match hst h hpl) ht hu
    · exact shared_of_same_emission hst hone (parseBytes_crc16_match hst h hpl) ht hu
  · exact shared_of_same_emission hst (parseBytes_crc8_match hst h hpl) (parseBytes_crc16_match hst h hpl) ht hu

/-! ### The round trip of an encoded Packet -/

/-- `bytes` emit a record from search on their last byte, and change nothing but the parser before it. -/
def EmitsOnLast (t s : State) (bytes : List Byte) : Prop :=
  BackInSearch t (parseBytes bytes s) ∧
    ∃ first last p, bytes = first ++ [last] ∧ parseBytes first s = { s with parser := p }

/-- No proper beginning of such bytes changes anything but the parser. -/
theorem EmitsOnLast.take_silent {t s : State} {bytes : List Byte} (h : EmitsOnLast t s bytes) {k : Nat}
    (hk : k < bytes.length) : ∃ p, parseBytes (bytes.take k) s = { s with parser := p } := by
  obtain ⟨-, first, last, p, rfl, hfirst⟩ := h
  have hk' : k ≤ first.length := by simpa [Nat.lt_succ_iff] using hk
  rw [List.take_append_of_le_length hk']
  rw [← List.take_append_drop k first] at hfirst
  exact ⟨_, silent_of_prefix hfirst⟩

section
variable {s : State} (hst : s.parser.st = .searchHeader) (h : Head)
include hst

/-- The header check is the last byte of a short frame. -/
theorem headerBytes_emitsOnLast {t : State} (e : Bool) (b3 : Byte)
    (hback : BackInSearch t (parseBytes (headerBytes s.par h e b3) s)) :
    EmitsOnLast t s (headerBytes s.par h e b3) :=
  ⟨hback, [Config.sync, h.addr, flagsByte h.origin h.role e h.command, b3], _, _, rfl, parseBytes_header hst _ _ _⟩

theorem crc8Bytes_emitsOnLast {pl : Payload} (hpl : pl.val ≠ []) :
    EmitsOnLast (emit h.addr (flagsByte h.origin h.role false h.command) pl s) s
      (crc8Bytes s.par h pl (crc8 s.par pl.val)) := by
  obtain ⟨p, hp, -⟩ := parseBytes_header_payload hst h false pl hpl
  exact ⟨parseBytes_crc8_match hst h hpl, _, _, p, rfl, hp⟩

theorem crc16Bytes_emitsOnLast {pl : Payload} (hpl : pl.val ≠ []) :
    EmitsOnLast (emit h.addr (flagsByte h.origin h.role false h.command) pl s) s
      (crc16Bytes s.par h pl (crc16 s.par pl.val)) := by
  obtain ⟨p, hp, hcol⟩ := parseBytes_header_payload hst h true pl hpl
  have hsplit : ∀ sum, crc16Bytes s.par h pl sum =
      headerBytes s.par h false (lengthByte true (BitVec.ofNat 7 pl.val.length)) ++ pl.val ++ [highByte sum] ++
        [lowByte sum] := fun _ => by rw [List.append_assoc _ [_]]; rfl
  refine ⟨parseBytes_crc16_match hst h hpl, _, _,
    { p with crcHi := highByte (crc16 s.par pl.val), st := .waitExtraDataCrc16b }, hsplit _, ?_⟩
  rw [parseBytes_append, hp]
  exact parseByte_high hcol (crc16selOf_lengthByte ..) _

end

/-- The canonical frame of a Packet, of whichever form, emits the Packet's fields on its last byte (R180). -/
theorem encodePacket_emitsOnLast {s : State} (hst : s.parser.st = .searchHeader) (x : Packet) :
    ∃ e, EmitsOnLast (emit x.address (flagsByte x.origin x.roleFlag e x.command) x.payload s) s
      (encodePacket s.par x) := by
  match hpl : x.payload.val with
  | [] =>
    have hx : x.payload = Payload.empty := Subtype.ext hpl
    rw [encodePacket_of_empty s.par hpl, hx]
    exact ⟨false, headerBytes_emitsOnLast hst x.head false _ (parseBytes_empty hst x.head false)⟩
  | [b] =>
    have hx : x.payload = Payload.one b := Subtype.ext hpl
    rw [encodePacket_of_one s.par hpl, hx]
    exact ⟨true, headerBytes_emitsOnLast hst x.head true b (parseBytes_emb hst x.head b)⟩
  | b :: c :: l =>
    have hne : x.payload.val ≠ [] := by simp [hpl]
    rw [encodePacket_of_two_le s.par (by simp [hpl])]
    refine ⟨false, ?_⟩
    split
    · exact crc8Bytes_emitsOnLast hst x.head hne
    · exact crc16Bytes_emitsOnLast hst x.head hne

/-- Settles O22: the frame emits the Packet's own fields, and they classify as the Packet. -/
theorem encodedPacketRoundTrips : Obligations.EncodedPacketRoundTrips := by
  intro s x hx hst
  obtain ⟨e, h⟩ := encodePacket_emitsOnLast hst x
  refine ⟨?_, fun k hk => h.take_silent hk⟩
  rw [emit_of_classify (classify_of_valid hx e)] at h
  exact h.1

/-! ### The reader's own steps -/

/-- Runs join: what one run ends in is where the next begins. -/
theorem run_add {m n : Nat} {s t : State} (h : Host.Core.run core m s = .next t) :
    Host.Core.run core (m + n) s = Host.Core.run core n t := by
  induction m generalizing s with
  | zero => cases h; rw [Nat.zero_add]
  | succ m ih =>
    rw [Nat.succ_add]
    simp only [Host.Core.run] at h ⊢
    split at h
    · exact ih h
    · cases h
    · cases h

theorem run_succ {n : Nat} {s t : State} (h : step s = .next t) :
    Host.Core.run core (n + 1) s = Host.Core.run core n t := by
  have hcore : core.step s = .next t := h
  simp only [Host.Core.run, hcore]

/-- The reader with a byte to feed, left alone, takes it through the parser (R233). -/
theorem step_feeding {s : State} (hl : s.parser.live = true) (b : Byte) (left rx : List Byte) :
    step (placed (.feeding (b :: left)) rx [] s) = .next (placed (afterTake left) rx [] (parseByte s b)) := by
  obtain ⟨t, ht⟩ := exists_selectTrans (par := s.par) hl b
  have hsel : selectTrans (placed (.feeding (b :: left)) rx [] s).par (placed (.feeding (b :: left)) rx [] s).parser b
      = some t := ht
  rw [step_idle rfl]
  show feedByte b _ = _
  rw [feedByte, hsel]
  show exec (transInstr t b) _ = _
  rw [exec_transInstr rfl (fun e => selectTrans_sync (e ▸ hsel)) hsel]
  show Host.Outcome.next (applyTrans t b (placed (afterTake left) rx [] s)) = _
  rw [applyTrans_eq_parseByte (s := placed (afterTake left) rx [] s) ht, parseByte_placed]

/-- As many steps as the read has bytes feed all of them to the parser, in order. -/
theorem run_feeding {s : State} (hinv : s.parser.Inv) {bytes : List Byte} (hne : bytes ≠ []) (rx : List Byte) :
    Host.Core.run core bytes.length (placed (.feeding bytes) rx [] s) =
      .next (placed .between rx [] (parseBytes bytes s)) := by
  induction bytes generalizing s with
  | nil => exact absurd rfl hne
  | cons b left ih =>
    rw [List.length_cons, run_succ (step_feeding hinv.live b left rx), parseBytes_cons]
    cases left with
    | nil => rfl
    | cons c left => exact ih (parseByte_inv hinv b) (by simp)

/-- A reader left alone on an open stream, with `stop` clear, reads up to `SCRATCH_SIZE` of what waits there (R233). -/
theorem run_read {s : State} (hstop : s.stop = false) (hopen : s.shutdown ≠ .closed) (x : List Byte) :
    Host.Core.run core 2 (placed .between x [] s) =
      .next (placed (afterTake (x.take s.par.scratchSize)) (x.drop s.par.scratchSize) [] s) := by
  have hbegin : step (placed .between x [] s) = .next (placed .reading x [] s) := by
    rw [step_idle rfl]
    simp [readerStep, placed, beginIteration, hstop]
  have hread : step (placed .reading x [] s) =
      .next (placed (afterTake (x.take s.par.scratchSize)) (x.drop s.par.scratchSize) [] s) := by
    rw [step_idle rfl]
    simp [readerStep, placed, readReturns, hopen]
  rw [run_succ hbegin, run_succ hread]
  rfl

/-- The reader left alone uses up what waits on the stream, read by read, however small the reads are (R17, R233). -/
theorem run_stream (n : Nat) {s : State} (hinv : s.parser.Inv) (hstop : s.stop = false) (hopen : s.shutdown ≠ .closed)
    (x : List Byte) (hx : x.length ≤ n) :
    ∃ k, Host.Core.run core k (placed .between x [] s) = .next (placed .between [] [] (parseBytes x s)) := by
  induction n generalizing s x with
  | zero => exact ⟨0, by rw [List.eq_nil_of_length_eq_zero (Nat.le_zero.mp hx)]; rfl⟩
  | succ n ih =>
    by_cases hnil : x = []
    · exact ⟨0, by rw [hnil]; rfl⟩
    have hsize : 0 < s.par.scratchSize := Nat.succ_pos _
    have hpos : 0 < x.length := List.length_pos_iff.mpr hnil
    have hchunk : x.take s.par.scratchSize ≠ [] := by
      rw [← List.length_pos_iff, List.length_take]
      omega
    have hrest : (x.drop s.par.scratchSize).length ≤ n := by rw [List.length_drop]; omega
    have hw := parseBytes_writeDomain (x.take s.par.scratchSize) s
    rw [WriteDomain] at hw
    obtain ⟨k, hk⟩ := ih (s := parseBytes (x.take s.par.scratchSize) s) (parseBytes_inv hinv _) (by rw [hw]; exact hstop)
      (by rw [hw]; exact hopen) (x.drop s.par.scratchSize) hrest
    rw [← parseBytes_append, List.take_append_drop] at hk
    refine ⟨2 + ((x.take s.par.scratchSize).length + k), ?_⟩
    rw [run_add (run_read hstop hopen x), afterTake, if_neg (by simpa using hchunk), run_add (run_feeding hinv hchunk _)]
    exact hk

/-- Settles O23: a step a byte for one read, and read by read for the bytes of a frame. -/
theorem readerStepsAreParserSteps : Obligations.ReaderStepsAreParserSteps := by
  intro s bytes hinv
  refine ⟨fun hne => ?_, fun i hi hr hb ha => ?_⟩
  · have hw := parseBytes_writeDomain bytes s
    have h := run_feeding hinv hne s.rx
    rw [WriteDomain] at hw
    rw [hw] at h ⊢
    exact h
  · obtain ⟨hstop, hopen, hrx, -⟩ := id hr
    obtain ⟨k, hk⟩ := run_stream bytes.length hinv hstop hopen bytes (Nat.le_refl _)
    refine ⟨k, ?_⟩
    have hbefore : placed .between bytes [] s = { s with rx := bytes } := by rw [placed, ← hb, ← ha]
    have hafter : placed .between [] [] s = { s with reader := .between } := by rw [placed, ← hrx, ← ha]
    rw [exec_frame hi, receiveFrame_of_ready hr hinv.live, ← parseBytes_reader, ← hafter, parseBytes_placed, ← hbefore]
    exact hk

end Sys2Proof.Proofs
end

section
/-!
The rows of the header check (41_parser.md R108, R110 to R112): emission of an empty payload, return to search, and the
closed form of the rollback.
-/

open Sys2Proof Sys2Proof.Machine Sys2Proof.Stated

namespace Sys2Proof.Proofs

/-! ### Header checks without a replay -/

/-- Settles O10: the row of a header of length 0, whose CRC-size flag no row reads. -/
theorem headerMatchEmitsEmpty : Obligations.HeaderMatchEmitsEmpty := by
  intro s b left hr hst hb he hn
  exact exec_transInstr_feeding .hcrcOkEmpty hr (live_of_st_ne (by simp [hst])) ⟨hst, hb, he, hn⟩

/-- Without a candidate there is nothing to replay (R110). -/
theorem recover_of_rb_none {p : Parser} (h : p.rb = none) (b : Byte) : p.recover b = p.returnToSearch := by
  simp only [Parser.recover, h]

/-- Settles O12: recovery without a candidate is a plain return. -/
theorem headerMismatchWithoutCandidate : Obligations.HeaderMismatchWithoutCandidate := by
  intro s b left hr hst hb hrb
  have hexec := exec_transInstr_feeding .hcrcBadNoroll hr (live_of_st_ne (by simp [hst])) ⟨hst, hb, hrb⟩
  rwa [applyTrans, onParser, recover_of_rb_none (p := (took left s).parser) hrb] at hexec

/-! ### The replay of a rollback -/

/-- The header byte a candidate names is a sync byte (R13, R30 (b)). -/
theorem candidate_sync {p : Parser} (h : p.Inv) (hst : p.st = .waitHeaderCrc8) :
    (p.rb = some .k1 → p.hdr[1] = Config.sync) ∧ (p.rb = some .k2 → p.hdr[2] = Config.sync) ∧
      (p.rb = some .k3 → p.hdr[3] = Config.sync) := by
  have hc : p.rb = earliestSync [(.k1, p.hdr[1]), (.k2, p.hdr[2]), (.k3, p.hdr[3])] := by
    simpa [Parser.seen, hst] using h.candidate
  rw [hc]
  by_cases h1 : p.hdr[1] = Config.sync
  · simp [earliestSync, h1]
  by_cases h2 : p.hdr[2] = Config.sync
  · simp [earliestSync, h1, h2]
  by_cases h3 : p.hdr[3] = Config.sync
  · simp [earliestSync, h1, h2, h3]
  · simp [earliestSync, h1, h2, h3]

/-- A replay of sync byte, then as many header bytes as stand behind it, ends where the header has three of them. -/
theorem withHeader_eq (p : Parser) (a f b3 : Byte) :
    withHeader a f b3 p = { p with
      st := .waitHeaderCrc8
      hdr := #v[0xBB, a, f, b3]
      rb := if a = 0xBB then some .k1 else if f = 0xBB then some .k2 else if b3 = 0xBB then some .k3 else none } := by
  have hinv : (withHeader a f b3 p).Inv :=
    takeLen_inv (takeCmd_inv (takeAddr_inv (takeSync_inv p) a rfl) f rfl) b3 rfl
  have hrb := hinv.candidate
  have hhdr := withHeader_hdr a f b3 p
  simp only [Parser.seen, withHeader_st, hhdr] at hrb
  calc withHeader a f b3 p
      = { p with st := .waitHeaderCrc8, hdr := (withHeader a f b3 p).hdr, rb := (withHeader a f b3 p).rb } := rfl
    _ = _ := by rw [hhdr, hrb]; rfl

/-- Where it has two of them. -/
theorem takeCmd_takeAddr_takeSync (p : Parser) (a f : Byte) :
    (p.takeSync.takeAddr a).takeCmd f = { p with
      st := .waitDataLength
      hdr := #v[0xBB, a, f, p.hdr[3]]
      rb := if a = 0xBB then some .k1 else if f = 0xBB then some .k2 else none } := by
  have hinv : ((p.takeSync.takeAddr a).takeCmd f).Inv := takeCmd_inv (takeAddr_inv (takeSync_inv p) a rfl) f rfl
  have hrb := hinv.candidate
  have hhdr : ((p.takeSync.takeAddr a).takeCmd f).hdr = #v[Config.sync, a, f, p.hdr[3]] := by
    ext i hi
    match i, hi with
    | 0, _ | 1, _ | 2, _ | 3, _ => simp
  simp only [Parser.seen, Parser.takeCmd_st, hhdr] at hrb
  calc (p.takeSync.takeAddr a).takeCmd f
      = { p with st := .waitDataLength, hdr := ((p.takeSync.takeAddr a).takeCmd f).hdr,
                 rb := ((p.takeSync.takeAddr a).takeCmd f).rb } := rfl
    _ = _ := by rw [hhdr, hrb]; rfl

/-- Where it has one of them. -/
theorem takeAddr_takeSync (p : Parser) (a : Byte) :
    p.takeSync.takeAddr a = { p with
      st := .waitCommand
      hdr := #v[0xBB, a, p.hdr[2], p.hdr[3]]
      rb := if a = 0xBB then some .k1 else none } := by
  have hinv : (p.takeSync.takeAddr a).Inv := takeAddr_inv (takeSync_inv p) a rfl
  have hrb := hinv.candidate
  have hhdr : (p.takeSync.takeAddr a).hdr = #v[Config.sync, a, p.hdr[2], p.hdr[3]] := by
    ext i hi
    match i, hi with
    | 0, _ | 1, _ | 2, _ | 3, _ => simp
  simp only [Parser.seen, Parser.takeAddr_st, hhdr] at hrb
  calc p.takeSync.takeAddr a
      = { p with st := .waitCommand, hdr := (p.takeSync.takeAddr a).hdr, rb := (p.takeSync.takeAddr a).rb } := rfl
    _ = _ := by rw [hhdr, hrb]; rfl

section
variable {p : Parser} (b : Byte)

/-- The replay from each candidate: its own sync byte starts a header, and what stands behind it is collected (R111, R112). -/
theorem recover_k1 (hrb : p.rb = some .k1) (h : p.hdr[1] = Config.sync) :
    p.recover b = withHeader p.hdr[2] p.hdr[3] b p.returnToSearch := by
  simp only [Parser.recover, hrb, Parser.fromCand, h]
  rfl

theorem recover_k2 (hrb : p.rb = some .k2) (h : p.hdr[2] = Config.sync) :
    p.recover b = (p.returnToSearch.takeSync.takeAddr p.hdr[3]).takeCmd b := by
  simp only [Parser.recover, hrb, Parser.fromCand, h]
  rfl

theorem recover_k3 (hrb : p.rb = some .k3) (h : p.hdr[3] = Config.sync) :
    p.recover b = p.returnToSearch.takeSync.takeAddr b := by
  simp only [Parser.recover, hrb, Parser.fromCand, h]
  rfl

end

/-- Settles O13: the parser after the rollback is the one that has collected the bytes behind the candidate. -/
theorem rollbackClosedForm : Obligations.RollbackClosedForm := by
  intro s b left hr hinv hst hb
  obtain ⟨h1, h2, h3⟩ := candidate_sync hinv hst
  have hexec : ∀ {q : Parser}, s.parser.rb ≠ none → s.parser.recover b = q →
      exec (.tHcrcBadRollback b) s = .next { took left s with parser := q } := fun hrb hq =>
    hq ▸ exec_transInstr_feeding .hcrcBadRollback hr (live_of_st_ne (by simp [hst])) ⟨hst, hb, hrb⟩
  refine ⟨fun hrb => hexec (by simp [hrb]) ?_, fun hrb => ⟨s.parser.hdr[3], hexec (by simp [hrb]) ?_⟩,
    fun hrb => ⟨s.parser.hdr[2], s.parser.hdr[3], hexec (by simp [hrb]) ?_⟩⟩
  · rw [recover_k1 b hrb (h1 hrb), withHeader_eq]
    rfl
  · rw [recover_k2 b hrb (h2 hrb), takeCmd_takeAddr_takeSync]
    rfl
  · rw [recover_k3 b hrb (h3 hrb), takeAddr_takeSync]
    rfl

end Sys2Proof.Proofs
end

section
/-!
Instructions by what they are (opcode table, formats FRAME to PORT): the meaning each kind of instruction comes down to, and
the statements about what a step runs and about rows run where others are selected (log entries 5 and 13).
-/

open Sys2Proof Sys2Proof.Machine Sys2Proof.Stated

namespace Sys2Proof.Proofs

/-! ### Every instruction is of one kind -/

/-- The kinds of instructions: a transition with its byte, a frame, a pure operation, one made only inside another, a receive
of a role and a shape, a send, `SHUTDOWN`, `try_dequeue`. -/
inductive InstrKind : Instr → Prop where
  | transition (tr : Trans) (b : Byte) (hb : tr = .searchSync → b = Config.sync) : InstrKind (transInstr tr b)
  | frame {i : Instr} (h : ∀ par, ∃ bytes, frameBytes par i bytes) : InstrKind i
  | pure {i : Instr} (h : onlyReturns i = true) : InstrKind i
  | inside {i : Instr} (h : insideAnother i = true) : InstrKind i
  | receive (role : Role) (shape : Shape) : InstrKind (receiveInstr role shape)
  | send (role : Role) (d : Draft) : InstrKind (.trySend role d)
  | shutdown : InstrKind .shutdown
  | tryDequeue : InstrKind .tryDequeue

theorem instrKind (i : Instr) : InstrKind i := by
  cases i with
  | frameEmb | frameEmpty | frameCrc8 | frameCrc16 => exact .frame fun _ => ⟨_, rfl⟩
  | pktCustomRequest | pktCustomReply | pktSystemRequest | pktSystemReport => exact .pure rfl
  | subPing | subReboot | subBlinkOn | subBlinkOff | subFwUpgrade | subSysUnknown | subDupAddr | subErrCode =>
    exact .pure rfl
  | tSearchSkip b => exact .transition .searchSkip b nofun
  | tSearchSync => exact .transition .searchSync Config.sync fun _ => rfl
  | tAddr b => exact .transition .addr b nofun
  | tCmd b => exact .transition .cmd b nofun
  | tLen b => exact .transition .len b nofun
  | tHcrcOkEmb b => exact .transition .hcrcOkEmb b nofun
  | tHcrcOkEmpty b => exact .transition .hcrcOkEmpty b nofun
  | tHcrcOkData b => exact .transition .hcrcOkData b nofun
  | tHcrcBadNoroll b => exact .transition .hcrcBadNoroll b nofun
  | tHcrcBadRollback b => exact .transition .hcrcBadRollback b nofun
  | tDataMore b => exact .transition .dataMore b nofun
  | tDataLast8 b => exact .transition .dataLast8 b nofun
  | tDataLast16 b => exact .transition .dataLast16 b nofun
  | tPcrc8Ok b => exact .transition .pcrc8Ok b nofun
  | tPcrc8Bad b => exact .transition .pcrc8Bad b nofun
  | tPcrc16a b => exact .transition .pcrc16a b nofun
  | tPcrc16bOk b => exact .transition .pcrc16bOk b nofun
  | tPcrc16bBad b => exact .transition .pcrc16bBad b nofun
  | fnCrc8 | fnCrc16 | fnRev8 | fnRev16 | fnClassify => exact .pure rfl
  | fnEmit | fnReturnToSearch | enqueue | overflowDrop | signal | waitNotifier => exact .inside rfl
  | encEmb | encEmpty | encCrc8 | encCrc16 => exact .pure rfl
  | tryRecvMonitor => exact .receive .monitor .attempt
  | recvMonitor t => exact .receive .monitor (.timed t)
  | recvcMonitor sig => exact .receive .monitor (.cancellable sig)
  | tryRecvHost => exact .receive .host .attempt
  | recvHost t => exact .receive .host (.timed t)
  | recvcHost sig => exact .receive .host (.cancellable sig)
  | tryRecvDevice => exact .receive .device .attempt
  | recvDevice t => exact .receive .device (.timed t)
  | recvcDevice sig => exact .receive .device (.cancellable sig)
  | trySend role d => exact .send role d
  | shutdown => exact .shutdown
  | tryDequeue => exact .tryDequeue

/-! ### What each kind runs -/

theorem exec_transition {tr : Trans} {b : Byte} (hb : tr = .searchSync → b = Config.sync) (s : State) :
    exec (transInstr tr b) s = takeTransition tr b s := by
  cases tr
  case searchSync => rw [hb rfl]; rfl
  all_goals rfl

theorem exec_receive (role : Role) (shape : Shape) (s : State) :
    exec (receiveInstr role shape) s = .next (receive role (shape.limit s.now) s) := by
  cases role <;> cases shape <;> rfl

/-- The test of the agenda is the statements' notion of an operation made only inside another (R156, R215). -/
theorem insideAnother_iff (i : Instr) : insideAnother i = true ↔ innerCall i := by
  refine ⟨fun h => ?_, ?_⟩
  · cases i with
    | fnEmit a f pl => exact .inl (.inl ⟨a, f, pl, rfl⟩)
    | fnReturnToSearch => exact .inl (.inr (.inl rfl))
    | signal => exact .inl (.inr (.inr (.inl rfl)))
    | enqueue p => exact .inl (.inr (.inr (.inr ⟨p, .inl rfl⟩)))
    | overflowDrop p => exact .inl (.inr (.inr (.inr ⟨p, .inr rfl⟩)))
    | waitNotifier l => exact .inr ⟨l, rfl⟩
    | _ => cases h
  · rintro ((⟨_, _, _, rfl⟩ | rfl | rfl | ⟨_, rfl | rfl⟩) | ⟨_, rfl⟩) <;> rfl

theorem step_op {s : State} {i : Instr} {rest : List Event} (h : s.agenda = .op i :: rest) :
    step s = runOperation i { s with agenda := rest } := step_cons h

/-- Settles O1: an operation of the agenda is executed unless it is made only inside another. -/
theorem stepRunsScheduledOperation : Obligations.StepRunsScheduledOperation := by
  intro s i rest ha
  refine ⟨fun hi => ?_, fun hi => ?_⟩
  · rw [step_op ha, runOperation, if_neg (fun h => hi ((insideAnother_iff i).mp h))]
  · rw [step_op ha, runOperation, if_pos ((insideAnother_iff i).mpr hi)]

/-! ### The reader's next byte -/

theorem afterTake_eq (left : List Byte) : afterTake left = if left = [] then .between else .feeding left := by
  simp [afterTake]

/-- The reader with a byte to feed runs the transition R100 selects for it (R233). -/
theorem readerStep_feeding {s : State} {b : Byte} {left : List Byte} {t : Trans} (hr : s.reader = .feeding (b :: left))
    (ht : selectTrans s.par s.parser b = some t) : readerStep s = exec (transInstr t b) s := by
  simp only [readerStep, hr, feedByte, ht]

/-- Settles O2: the reader's step is the same, whether the agenda names it or is empty. -/
theorem stepRunsSelectedTransition : Obligations.StepRunsSelectedTransition := by
  intro s b left t hr ht
  refine ⟨fun ha => ?_, fun rest ha => ?_, _, exec_transInstr hr (fun e => selectTrans_sync (e ▸ ht)) ht, ?_, ?_⟩
  · rw [step_idle ha, readerStep_feeding hr ht]
  · rw [step_cons ha]
    exact readerStep_feeding (s := { s with agenda := rest }) hr ht
  · have hw := applyTrans_writeDomain t b { s with reader := afterTake left }
    rw [WriteDomain] at hw
    rw [hw, took, afterTake_eq]
  · have hw := applyTrans_writeDomain t b { s with reader := afterTake left }
    rw [WriteDomain] at hw
    rw [hw]

/-! ### Operations on a Packet -/

theorem kind_systemRequest_iff (p : Packet) : p.kind = .systemRequest ↔ p.origin = .host ∧ p.command = 0 := by
  cases ho : p.origin <;> simp only [Packet.kind, kindOf, ho] <;> split <;> simp_all

theorem kind_systemReport_iff (p : Packet) : p.kind = .systemReport ↔ p.origin = .device ∧ p.command = 0 := by
  cases ho : p.origin <;> simp only [Packet.kind, kindOf, ho] <;> split <;> simp_all

section
variable {p : Packet} (s : State)

theorem withPacket_of_valid {f : State → Host.Outcome State Fault Refusal} (hv : p.valid = true) :
    withPacket p f s = f s := by rw [withPacket, if_pos hv]

theorem withPacket_of_invalid {f : State → Host.Outcome State Fault Refusal} (hv : p.valid = false) :
    withPacket p f s = .next (returned .constructionError s) := by
  rw [withPacket, if_neg (by simp [hv])]
  rfl

/-- A system request answers its action (R137). -/
theorem decodeAction_of_systemRequest (hv : p.valid = true) (ho : p.origin = .host) (hc : p.command = 0) :
    decodeAction p s = .next (returned (.action (p.action s.par)) s) := by
  rw [decodeAction, withPacket_of_valid s hv, if_pos ((kind_systemRequest_iff p).mpr ⟨ho, hc⟩)]
  rfl

/-- A Packet of another kind has none (log entry 13). -/
theorem decodeAction_of_other (hv : p.valid = true) (h : p.origin = .device ∨ p.command ≠ 0) :
    decodeAction p s = .next (returned .noAttribute s) := by
  have hk : p.kind ≠ .systemRequest := by
    rw [Ne, kind_systemRequest_iff]
    rintro ⟨ho, hc⟩
    exact h.elim (fun h => by simp [ho] at h) (fun h => h hc)
  rw [decodeAction, withPacket_of_valid s hv, if_neg hk]
  rfl

/-- A system report answers what is asked of it (R138). -/
theorem reportAttribute_of_systemReport (f : Packet → Output) (hv : p.valid = true) (ho : p.origin = .device)
    (hc : p.command = 0) : reportAttribute f p s = .next (returned (f p) s) := by
  rw [reportAttribute, withPacket_of_valid s hv, if_pos ((kind_systemReport_iff p).mpr ⟨ho, hc⟩)]
  rfl

/-- A Packet of another kind has none (log entry 13). -/
theorem reportAttribute_of_other (f : Packet → Output) (hv : p.valid = true) (h : p.origin = .host ∨ p.command ≠ 0) :
    reportAttribute f p s = .next (returned .noAttribute s) := by
  have hk : p.kind ≠ .systemReport := by
    rw [Ne, kind_systemReport_iff]
    rintro ⟨ho, hc⟩
    exact h.elim (fun h => by simp [ho] at h) (fun h => h hc)
  rw [reportAttribute, withPacket_of_valid s hv, if_neg hk]
  rfl

theorem exec_subDupAddr :
    exec (.subDupAddr p) s = reportAttribute (fun p => .duplicateAddress p.duplicateAddress) p s := rfl

theorem exec_subErrCode : exec (.subErrCode p) s = reportAttribute (fun p => .errorCode p.errorCode) p s := rfl

theorem encodeOperand_of_invalid (hv : p.valid = false) :
    encodeOperand p s = .next (returned .constructionError s) := withPacket_of_invalid s hv

theorem decodeAction_of_invalid (hv : p.valid = false) :
    decodeAction p s = .next (returned .constructionError s) := withPacket_of_invalid s hv

theorem reportAttribute_of_invalid (f : Packet → Output) (hv : p.valid = false) :
    reportAttribute f p s = .next (returned .constructionError s) := withPacket_of_invalid s hv

/-- The six rows of a system request's action run one operation (R137). -/
theorem exec_action {i : Instr}
    (hi : i ∈ [Instr.subPing p, .subReboot p, .subBlinkOn p, .subBlinkOff p, .subFwUpgrade p, .subSysUnknown p]) :
    exec i s = decodeAction p s := by
  simp only [List.mem_cons, List.not_mem_nil, or_false] at hi
  obtain rfl | rfl | rfl | rfl | rfl | rfl := hi <;> rfl

/-- The four encoder cases run one operation (R180). -/
theorem exec_encoder {i : Instr} (hi : i ∈ [Instr.encEmb p, .encEmpty p, .encCrc8 p, .encCrc16 p]) :
    exec i s = encodeOperand p s := by
  simp only [List.mem_cons, List.not_mem_nil, or_false] at hi
  obtain rfl | rfl | rfl | rfl := hi <;> rfl

/-- The four kinds run one operation (R132). -/
theorem exec_kind {r : FrameRecord} {i : Instr}
    (hi : i ∈ [Instr.pktCustomRequest r, .pktCustomReply r, .pktSystemRequest r, .pktSystemReport r]) :
    exec i s = .next (returned (.classified (classify r)) s) := by
  simp only [List.mem_cons, List.not_mem_nil, or_false] at hi
  obtain rfl | rfl | rfl | rfl := hi <;> rfl

end

/-! ### A row run where another is selected -/

/-- Settles O7: the rows of one format run one operation, and it is the operands and the state that select. -/
theorem unselectedRowRunsSelected : Obligations.UnselectedRowRunsSelected := by
  intro s t u b left r p
  refine ⟨fun hr hu ht => ?_, fun i hi => exec_kind s hi, fun hv => ⟨fun i hi => ⟨fun h => ?_, fun h => ?_⟩,
    fun h => ⟨fun hne => ?_, fun hnil => ?_⟩, fun h => ⟨?_, ?_⟩, fun i hi => ?_⟩⟩
  · rw [exec_transInstr hr hu ht, exec_transInstr hr (fun e => selectTrans_sync (e ▸ ht)) ht]
  · rw [exec_action s hi, decodeAction_of_systemRequest s hv h.1 h.2]
  · rw [exec_action s hi, decodeAction_of_other s hv h]
  · have hdup : p.duplicateAddress = false := by
      obtain hne | hrole := hne
      · simp [Packet.duplicateAddress, hne]
      · simp [Packet.duplicateAddress, hrole]
    rw [exec_subDupAddr, reportAttribute_of_systemReport s _ hv h.1 h.2, hdup]
  · have hcode : p.errorCode = none := by simp [Packet.errorCode, hnil]
    rw [exec_subErrCode, reportAttribute_of_systemReport s _ hv h.1 h.2, hcode]
  · rw [exec_subDupAddr, reportAttribute_of_other s _ hv h]
  · rw [exec_subErrCode, reportAttribute_of_other s _ hv h]
  · rw [exec_encoder s hi, encodeOperand_of_encodePacket_eq hv rfl]

/-- Settles O31: every operation on a Packet first asks whether its operand is one. -/
theorem invalidPacketIsRejected : Obligations.InvalidPacketIsRejected := by
  intro s p hv i hi
  simp only [List.mem_cons, List.not_mem_nil, or_false] at hi
  obtain rfl | rfl | rfl | rfl | rfl | rfl | rfl | rfl | rfl | rfl | rfl | rfl | rfl | rfl := hi
  · exact withPacket_of_invalid (f := fun s => .next (enqueue p s)) s hv
  · exact withPacket_of_invalid (f := fun s => .next (overflowDrop p s)) s hv
  iterate 4 exact encodeOperand_of_invalid s hv
  iterate 6 exact decodeAction_of_invalid s hv
  · rw [exec_subDupAddr, reportAttribute_of_invalid s _ hv]
  · rw [exec_subErrCode, reportAttribute_of_invalid s _ hv]

/-! ### System packets -/

/-- Settles O29: the tests of the five bytes are made in order, and no two of the bytes are equal. -/
theorem systemRequestActions : Obligations.SystemRequestActions := by
  intro s p hv ho hc hd
  have hexec : ∀ {i : Instr} {a : Action},
      i ∈ [Instr.subPing p, .subReboot p, .subBlinkOn p, .subBlinkOff p, .subFwUpgrade p, .subSysUnknown p] →
        p.action s.par = a → exec i s = .next (returned (.action a) s) := fun hi ha => by
    rw [exec_action s hi, decodeAction_of_systemRequest s hv ho hc, ha]
  simp only [Params.distinct, List.nodup_cons, List.mem_cons, List.not_mem_nil, or_false, not_or, not_false_eq_true,
    List.nodup_nil, and_true] at hd
  obtain ⟨⟨h12, h13, h14, h15⟩, ⟨h23, h24, h25⟩, ⟨h34, h35⟩, h45⟩ := hd
  refine ⟨fun b more hb => ?_, fun hnil => hexec (by simp) (by simp [Packet.action, hnil])⟩
  refine ⟨fun h => hexec (by simp) ?_, fun h => hexec (by simp) ?_, fun h => hexec (by simp) ?_,
    fun h => hexec (by simp) ?_, fun h => hexec (by simp) ?_, fun h => hexec (by simp) ?_⟩
  · simp only [Packet.action, hb, if_pos h]
  · simp only [Packet.action, hb, h, if_neg (Ne.symm h12), if_true]
  · simp only [Packet.action, hb, h, if_neg (Ne.symm h13), if_neg (Ne.symm h23), if_true]
  · simp only [Packet.action, hb, h, if_neg (Ne.symm h14), if_neg (Ne.symm h24), if_neg (Ne.symm h34), if_true]
  · simp only [Packet.action, hb, h, if_neg (Ne.symm h15), if_neg (Ne.symm h25), if_neg (Ne.symm h35),
      if_neg (Ne.symm h45), if_true]
  · simp only [List.mem_cons, List.not_mem_nil, or_false, not_or] at h
    obtain ⟨h1, h2, h3, h4, h5⟩ := h
    simp only [Packet.action, hb, if_neg h1, if_neg h2, if_neg h3, if_neg h4, if_neg h5]

/-- Settles O30: what a system report means is a function of its payload. -/
theorem systemReportAttributes : Obligations.SystemReportAttributes := by
  intro s p hv ho hc
  have hcode : exec (.subErrCode p) s = .next (returned (.errorCode p.errorCode) s) :=
    reportAttribute_of_systemReport s (fun p => .errorCode p.errorCode) hv ho hc
  have hdup : p.duplicateAddress = decide (p.payload.val = [] ∧ p.roleFlag = true) := by
    cases h : p.payload.val <;> simp [Packet.duplicateAddress, h]
  refine ⟨?_, fun b more hb => ?_, fun hnil => ?_⟩
  · rw [← hdup]
    exact reportAttribute_of_systemReport s (fun p => .duplicateAddress p.duplicateAddress) hv ho hc
  · rw [hcode, Packet.errorCode, hb, List.head?_cons]
  · rw [hcode, Packet.errorCode, hnil, List.head?_nil]

/-! ### Pure operations -/

/-- The caller gets one value, which is no receive's, and nothing else happens. -/
def ReturnsPlain (s t : State) : Prop := ∃ o : Output, o.Plain ∧ t = returned o s

theorem withPacket_returnsPlain {p : Packet} {g : State → Output} {s t : State} (hg : (g s).Plain)
    (h : withPacket p (fun s => .next (output (g s) s)) s = .next t) : ReturnsPlain s t := by
  obtain ⟨-, h⟩ | ⟨-, h⟩ := withPacket_next.mp h
  · cases h; exact ⟨_, hg, rfl⟩
  · exact ⟨.constructionError, nofun, h.symm⟩

theorem decodeAction_returnsPlain {p : Packet} {s t : State} (h : decodeAction p s = .next t) : ReturnsPlain s t :=
  withPacket_returnsPlain (by split <;> exact nofun) h

theorem reportAttribute_returnsPlain {f : Packet → Output} {p : Packet} {s t : State} (hf : (f p).Plain)
    (h : reportAttribute f p s = .next t) : ReturnsPlain s t :=
  withPacket_returnsPlain (by split; exacts [hf, nofun]) h

theorem encodeOperand_returnsPlain {p : Packet} {s t : State} (h : encodeOperand p s = .next t) : ReturnsPlain s t :=
  withPacket_returnsPlain (g := fun s => .frame (encodePacket s.par p)) nofun h

/-- A pure operation returns one value that is no receive's (R90, R130, R137, R138, R180). -/
theorem exec_pure {i : Instr} {s t : State} (hi : onlyReturns i = true) (h : exec i s = .next t) : ReturnsPlain s t := by
  cases i with
  | pktCustomRequest | pktCustomReply | pktSystemRequest | pktSystemReport => cases h; exact ⟨_, by nofun, rfl⟩
  | subPing | subReboot | subBlinkOn | subBlinkOff | subFwUpgrade | subSysUnknown => exact decodeAction_returnsPlain h
  | subDupAddr => exact reportAttribute_returnsPlain (f := fun p => .duplicateAddress p.duplicateAddress) nofun h
  | subErrCode => exact reportAttribute_returnsPlain (f := fun p => .errorCode p.errorCode) nofun h
  | fnCrc8 | fnCrc16 | fnRev8 | fnRev16 | fnClassify => cases h; exact ⟨_, by nofun, rfl⟩
  | encEmb | encEmpty | encCrc8 | encCrc16 => exact encodeOperand_returnsPlain h
  | _ => cases hi

/-- Settles O49: a pure operation returns one value. -/
theorem pureOperationsOnlyReturn : Obligations.PureOperationsOnlyReturn := by
  intro s t i hi h
  obtain ⟨o, -, ho⟩ := exec_pure hi h
  exact ⟨o, ho⟩

end Sys2Proof.Proofs
end

section
/-!
Emission and the queue's primitives (43_queue.md R150 to R153), the classifier by fields (42_classifier.md R130 to R140), the
checksum unit (40_crc.md), the lengths of frames, and the Packet constructors (R143).
-/

open Sys2Proof Sys2Proof.Machine Sys2Proof.Stated

namespace Sys2Proof.Proofs

/-! ### The queue's primitives -/

section
variable {s : State}

/-- With room a Packet is appended and signalled (R150, R152). -/
theorem enqueue_of_room (p : Packet) (h : s.q.length < s.par.queueDepth) :
    enqueue p s = { s with
      q := s.q ++ [p]
      notifyCount := if s.notifyCount < s.par.notifyCap then s.notifyCount + 1 else s.notifyCount } := if_pos h

/-- Without room the loss is recorded (R151). -/
theorem enqueue_of_full (p : Packet) (h : s.par.queueDepth ≤ s.q.length) :
    enqueue p s = { s with overflow := true } := if_neg (Nat.not_lt.mpr h)

theorem exec_enqueue {p : Packet} (hv : p.valid = true) : exec (.enqueue p) s = .next (enqueue p s) :=
  withPacket_of_valid (f := fun s => .next (enqueue p s)) s hv

theorem exec_overflowDrop {p : Packet} (hv : p.valid = true) :
    exec (.overflowDrop p) s = .next { s with overflow := true } :=
  withPacket_of_valid (f := fun s => .next (overflowDrop p s)) s hv

theorem exec_emit (a f : Byte) (pl : Payload) : exec (.fnEmit a f pl) s = .next (emit a f pl s) := rfl

theorem exec_signal : exec .signal s = .next (signal s) := rfl

theorem exec_tryDequeue : exec .tryDequeue s = .next (output (.dequeued (tryDequeue s).1) (tryDequeue s).2) := rfl

end

/-- Settles O24: what the record classifies as decides, and then whether there is room. -/
theorem emitClassifiesAndEnqueues : Obligations.EmitClassifiesAndEnqueues := by
  intro s addr flags pl
  refine ⟨fun hc => ?_, fun p hc => ⟨fun hroom => ?_, fun hfull => ?_⟩⟩
  · rw [exec_emit, emit_of_classify_none hc]
  · rw [exec_emit, emit_of_classify hc, enqueue_of_room p hroom]
  · rw [exec_emit, emit_of_classify hc, enqueue_of_full p hfull]

/-- Settles O25: whether there is room, and whether the notifier is at its capacity, decide. -/
theorem enqueueAppendsThenSignals : Obligations.EnqueueAppendsThenSignals := by
  intro s p hv
  refine ⟨fun hroom => ?_, fun hfull => ?_, fun t hroom ht => ?_, exec_overflowDrop hv, fun hlt => ?_, fun hcap => ?_⟩
  · rw [exec_enqueue hv, enqueue_of_room p hroom]
  · rw [exec_enqueue hv, enqueue_of_full p hfull]
  · rw [exec_enqueue hv, enqueue_of_room p hroom] at ht
    cases ht
    have hcap : 1 ≤ s.par.notifyCap := Nat.succ_pos _
    show 1 ≤ if s.notifyCount < s.par.notifyCap then s.notifyCount + 1 else s.notifyCount
    split <;> omega
  · rw [exec_signal, signal, if_pos hlt]
  · rw [exec_signal, signal, if_neg (Nat.not_lt.mpr hcap)]

/-- Settles O26: the two cases of the queue. -/
theorem tryDequeueTakesHead : Obligations.TryDequeueTakesHead := by
  intro s
  refine ⟨fun hq => ?_, fun p rest hq => ?_⟩
  · rw [exec_tryDequeue]
    simp only [tryDequeue, hq]
    rfl
  · rw [exec_tryDequeue]
    simp only [tryDequeue, hq]
    rfl

/-! ### The classifier -/

/-- The invariants of a Packet that its types leave open (R139 (c), (d)). -/
theorem valid_iff (p : Packet) :
    p.valid = true ↔ ¬ (p.origin = .device ∧ p.address = 0) ∧
      ¬ (p.origin = .host ∧ p.command ≠ 0 ∧ p.roleFlag = true ∧ p.address = 0) := by
  simp only [Packet.valid, Bool.and_eq_true, Bool.not_eq_true', ← Bool.not_eq_true, beq_iff_eq, bne_iff_ne, and_assoc]

/-- A record of device origin is a Packet unless its address is 0 (R134, R136, R139 (c)). -/
theorem classify_device {r : FrameRecord} (h : r.flags.getLsbD 7 = false) :
    classify r = if r.addr = 0 then none
      else some ⟨.device, r.addr, r.flags.getLsbD 6, r.flags.extractLsb' 0 5, r.payload⟩ := by
  have ho : originOf r.flags = .device := by rw [originOf, h]; rfl
  have hvalid : r.extract.valid = true ↔ ¬ r.addr = 0 := by simp [valid_iff, FrameRecord.extract, ho]
  by_cases ha : r.addr = 0
  · rw [if_pos ha, classify, if_neg (fun hv => hvalid.mp hv ha)]
  · rw [if_neg ha, classify, if_pos (hvalid.mpr ha), FrameRecord.extract, ho]
    rfl

/-- A record of host origin is a Packet unless it asks address 0 for a reply to a custom command (R133, R135, R139 (d)). -/
theorem classify_host {r : FrameRecord} (h : r.flags.getLsbD 7 = true) :
    classify r = if r.flags.extractLsb' 0 5 ≠ 0 ∧ r.flags.getLsbD 6 = true ∧ r.addr = 0 then none
      else some ⟨.host, r.addr, r.flags.getLsbD 6, r.flags.extractLsb' 0 5, r.payload⟩ := by
  have ho : originOf r.flags = .host := by rw [originOf, h]; rfl
  have hvalid : r.extract.valid = true ↔
      ¬ (r.flags.extractLsb' 0 5 ≠ 0 ∧ r.flags.getLsbD 6 = true ∧ r.addr = 0) := by
    rw [valid_iff]
    simp only [FrameRecord.extract, ho, commandOf, roleOf, reduceCtorEq, false_and, not_false_eq_true, true_and]
  by_cases ha : r.flags.extractLsb' 0 5 ≠ 0 ∧ r.flags.getLsbD 6 = true ∧ r.addr = 0
  · rw [if_pos ha, classify, if_neg (fun hv => hvalid.mp hv ha)]
  · rw [if_neg ha, classify, if_pos (hvalid.mpr ha), FrameRecord.extract, ho]
    rfl

/-- Settles O27: by the origin bit, each side's one reason to drop a record. -/
theorem classifyByFields : Obligations.ClassifyByFields := by
  intro s r
  have hexec : exec (.fnClassify r) s = .next (returned (.classified (classify r)) s) := rfl
  rw [hexec]
  cases h : r.flags.getLsbD 7
  · simp [classify_device h]
  · simp [classify_host h]

/-- Settles O28: the same, with the command's being 0 or not. -/
theorem kindsClassify : Obligations.KindsClassify := by
  intro s r
  refine ⟨fun h hc => ?_, fun h hc => ?_, fun h hc => ?_, fun h hc => ?_⟩ <;> rw [exec_kind s (r := r) (by simp)]
  · simp only [classify_host h, ne_eq, hc, not_false_eq_true, true_and]
  · rw [classify_device h]
  · simp [classify_host h, hc]
  · simp [classify_device h, hc]

/-! ### The checksum unit -/

/-- Settles O32: bit `i` of the reversal is bit `w - 1 - i`. -/
theorem bitReversal : Obligations.BitReversal := by
  intro s b v
  refine ⟨⟨rev8 b, rfl, fun i hi => ?_, BitVec.reverse_reverse_eq⟩,
    ⟨rev16 v, rfl, fun i hi => ?_, BitVec.reverse_reverse_eq⟩⟩
  · rw [rev8, BitVec.getLsbD_reverse, BitVec.getMsbD_eq_getLsbD, decide_eq_true hi, Bool.true_and]
  · rw [rev16, BitVec.getLsbD_reverse, BitVec.getMsbD_eq_getLsbD, decide_eq_true hi, Bool.true_and]

theorem crc8_nil (par : Params) : crc8 par [] = 0 := show rev8 0 = 0 by decide

theorem crc16_nil (par : Params) : crc16 par [] = 0 := show rev16 0 = 0 by decide

theorem withSampleTables_t8 (par : Params) : par.withSampleTables.t8 = sampleT8 := rfl

theorem withSampleTables_t16 (par : Params) : par.withSampleTables.t16 = sampleT16 := rfl

/-- The check values of R97, for the tables of S. -/
theorem sample_check_values :
    crc8 Config.params.withSampleTables [0x31, 0x32, 0x33, 0x34, 0x35, 0x36, 0x37, 0x38, 0x39] = 0x20 ∧
      crc16 Config.params.withSampleTables [0x31, 0x32, 0x33, 0x34, 0x35, 0x36, 0x37, 0x38, 0x39] = 0x31C3 := by
  decide +kernel

/-- Settles O33: a checksum is a fold over the bytes, and depends on its own table alone. -/
theorem checksumRecurrence : Obligations.ChecksumRecurrence := by
  intro s bytes b
  have h8 : ∀ (l : List Byte) (u : State), exec (.fnCrc8 l) u = .next (returned (.byte (crc8 u.par l)) u) :=
    fun _ _ => rfl
  have h16 : ∀ (l : List Byte) (u : State), exec (.fnCrc16 l) u = .next (returned (.word (crc16 u.par l)) u) :=
    fun _ _ => rfl
  refine ⟨fun u hu => ⟨?_, ?_⟩, ?_, ?_, ⟨bytes.foldl (crc8Fold s.par) 0, rfl, ?_⟩,
    ⟨bytes.foldl (crc16Fold s.par) 0, rfl, ?_⟩⟩
  · rw [h8, crc8_congr (par' := Config.params.withSampleTables) (by rw [hu, withSampleTables_t8, withSampleTables_t8]),
      sample_check_values.1]
  · rw [h16, crc16_congr (par' := Config.params.withSampleTables)
      (by rw [hu, withSampleTables_t16, withSampleTables_t16]), sample_check_values.2]
  · rw [h8, crc8_nil]
  · rw [h16, crc16_nil]
  · rw [h8, crc8, List.foldl_concat]; rfl
  · rw [h16, crc16, List.foldl_concat]; rfl

/-! ### The flags byte and the length of a frame -/

theorem toNat_flagsByte (o : Origin) (role embedded : Bool) (c : BitVec 5) :
    (flagsByte o role embedded c).toNat =
      (if o = .host then 128 else 0) + (if role then 64 else 0) + (if embedded then 32 else 0) + c.toNat := by
  revert c; cases o <;> cases role <;> cases embedded <;> decide

theorem length_headerBytes (par : Params) (h : Head) (e : Bool) (b3 : Byte) : (headerBytes par h e b3).length = 5 := rfl

theorem length_encodePacket (par : Params) (p : Packet) :
    (encodePacket par p).length =
      if p.payload.val.length ≤ 1 then 5
      else if p.payload.val.length ≤ 12 then p.payload.val.length + 6
      else p.payload.val.length + 7 := by
  match hpl : p.payload.val with
  | [] => rw [encodePacket_of_empty par hpl]; rfl
  | [b] => rw [encodePacket_of_one par hpl]; rfl
  | b :: c :: l =>
    have h2 : 2 ≤ p.payload.val.length := by simp [hpl]
    rw [encodePacket_of_two_le par h2, ← hpl, if_neg (show ¬ p.payload.val.length ≤ 1 by omega)]
    show List.length (if p.payload.val.length ≤ 12 then _ else _) = _
    split
    · simp only [crc8Bytes, List.length_append, length_headerBytes, List.length_singleton]
      omega
    · simp only [crc16Bytes, List.length_append, length_headerBytes, List.length_cons, List.length_nil]
      omega

/-- Settles O35: the weights of the fields, and the lengths of the parts of a frame. -/
theorem flagsByteAndFrameLength : Obligations.FlagsByteAndFrameLength := fun par p o role embedded c =>
  ⟨toNat_flagsByte o role embedded c, length_encodePacket par p⟩

/-! ### The constructors -/

/-- The fields of `p` are the arguments of a constructor (R143). -/
def HasFields (p : Packet) (o : Origin) (a c : Nat) (l : List Byte) (f : Bool) : Prop :=
  p.origin = o ∧ p.address.toNat = a ∧ p.command.toNat = c ∧ p.payload.val = l ∧ p.roleFlag = f

section
variable {p : Packet} {o : Origin} {a c : Nat} {l : List Byte} {f : Bool}

/-- A Packet with those fields is the one put together from them. -/
theorem HasFields.eq (h : HasFields p o a c l f) (hl : l.length ≤ 127) :
    p = ⟨o, BitVec.ofNat 8 a, f, BitVec.ofNat 5 c, ⟨l, hl⟩⟩ := by
  obtain ⟨rfl, rfl, rfl, rfl, rfl⟩ := h
  simp

/-- Its invariants, in terms of the arguments (R139). -/
theorem HasFields.valid_iff (h : HasFields p o a c l f) :
    p.valid = true ↔ ¬ (o = .device ∧ a = 0) ∧ ¬ (o = .host ∧ c ≠ 0 ∧ f = true ∧ a = 0) := by
  obtain ⟨rfl, rfl, rfl, rfl, rfl⟩ := h
  have ha : p.address.toNat = 0 ↔ p.address = 0 := ⟨fun h => BitVec.eq_of_toNat_eq h, fun h => by rw [h]; rfl⟩
  have hc : p.command.toNat = 0 ↔ p.command = 0 := ⟨fun h => BitVec.eq_of_toNat_eq h, fun h => by rw [h]; rfl⟩
  rw [Proofs.valid_iff, Ne, Ne, ha, hc]

/-- In range the numbers are the fields. -/
theorem hasFields_ofNat (ha : a ≤ 255) (hc : c ≤ 31) (hl : l.length ≤ 127) :
    HasFields ⟨o, BitVec.ofNat 8 a, f, BitVec.ofNat 5 c, ⟨l, hl⟩⟩ o a c l f :=
  ⟨rfl, Nat.mod_eq_of_lt (by omega), Nat.mod_eq_of_lt (by omega), rfl, rfl⟩

/-- The common tail of the constructors accepts the ranges of the fields and the combinations that are Packets (R143). -/
theorem build_eq_some_iff :
    Packet.build o a c l f = some p ↔
      (a ≤ 255 ∧ c ≤ 31 ∧ l.length ≤ 127 ∧ ¬ (o = .device ∧ a = 0) ∧ ¬ (o = .host ∧ c ≠ 0 ∧ f = true ∧ a = 0)) ∧
        HasFields p o a c l f := by
  by_cases hl : l.length ≤ 127
  case neg => simp [Packet.build, Payload.ofBytes, hl]
  simp only [Packet.build, Payload.ofBytes, dif_pos hl, Option.ite_none_right_eq_some, Bool.and_eq_true,
    decide_eq_true_eq, Option.some.injEq]
  refine ⟨?_, ?_⟩
  · rintro ⟨⟨⟨ha, hc⟩, hv⟩, rfl⟩
    have hf := hasFields_ofNat (o := o) (f := f) ha hc hl
    exact ⟨⟨ha, hc, hl, hf.valid_iff.mp hv⟩, hf⟩
  · rintro ⟨⟨ha, hc, -, hv⟩, hf⟩
    rw [← hf.eq hl]
    exact ⟨⟨⟨ha, hc⟩, hf.valid_iff.mpr hv⟩, rfl⟩

end

/-- Settles O46: the ranges of the common tail, with the origin and the command of each constructor. -/
theorem constructorsAcceptExactlyTheirRanges : Obligations.ConstructorsAcceptExactlyTheirRanges := by
  intro a c l f p
  refine ⟨?_, ?_, ?_, ?_⟩
  · by_cases hc : c = 0
    · simp [Draft.construct, hc]
    · rw [Draft.construct, if_neg hc, build_eq_some_iff, HasFields]
      refine and_congr_left' ?_
      grind
  · by_cases hc : c = 0
    · simp [Draft.construct, hc]
    · rw [Draft.construct, if_neg hc, build_eq_some_iff, HasFields]
      refine and_congr_left' ?_
      grind
  · rw [Draft.construct, build_eq_some_iff, HasFields]
    refine and_congr_left' ?_
    grind
  · rw [Draft.construct, build_eq_some_iff, HasFields]
    refine and_congr_left' ?_
    grind

end Sys2Proof.Proofs
end

section
/-!
SHUTDOWN and the reader loop (70_reset_and_hazards.md R233 to R235), and the state at reset (10_state.md R29, R30).
-/

open Sys2Proof Sys2Proof.Machine Sys2Proof.Stated

namespace Sys2Proof.Proofs

/-! ### SHUTDOWN -/

theorem exec_shutdown (s : State) : exec .shutdown s = .next (beginShutdown s) := rfl

theorem step_closeStream {s : State} {rest : List Event} (h : s.agenda = .closeStream :: rest) :
    step s = .next (closeStream { s with agenda := rest }) := step_cons h

/-- Settles O51: the phase of the shutdown decides, and for line 3 whether its time has come. -/
theorem shutdownSetsStop : Obligations.ShutdownSetsStop := by
  intro s
  refine ⟨fun h => ?_, fun h => ?_, fun rest ha => ⟨fun t h => ⟨fun hlt => ?_, fun hle => ?_⟩, fun h => ?_⟩⟩
  · rw [exec_shutdown]
    simp only [beginShutdown, h]
  · rw [exec_shutdown]
    cases hs : s.shutdown with
    | notBegun => exact absurd hs h
    | grace t => simp only [beginShutdown, hs]
    | closed => simp only [beginShutdown, hs]
  · rw [step_closeStream ha]
    simp only [closeStream, h, if_neg (Nat.not_le.mpr hlt)]
  · rw [step_closeStream ha]
    simp only [closeStream, h, if_pos hle]
  · rw [step_closeStream ha]
    obtain h | h := h <;> simp only [closeStream, h]

/-! ### The reader loop -/

/-- A read hands over nothing exactly where it may take nothing or nothing waits. -/
theorem take_scratch_eq_nil (par : Params) (n : Nat) (rx : List Byte) :
    rx.take (min n par.scratchSize) = [] ↔ n = 0 ∨ rx = [] := by
  have hsize : par.scratchSize ≠ 0 := Nat.succ_ne_zero _
  rw [List.take_eq_nil_iff, Nat.min_eq_zero_iff]
  simp [hsize]

/-- A read of an open stream hands over what it takes from it (R40, R233). -/
theorem readReturns_of_open {s : State} (h : s.shutdown ≠ .closed) (n : Nat) :
    readReturns n s = { s with
      reader := if n = 0 ∨ s.rx = [] then .between else .feeding (s.rx.take (min n s.par.scratchSize))
      rx := s.rx.drop (min n s.par.scratchSize) } := by
  simp only [readReturns, if_neg h, afterTake_eq, take_scratch_eq_nil]

/-- A read of a closed stream hands over nothing (R208, R235). -/
theorem readReturns_of_closed {s : State} (h : s.shutdown = .closed) (n : Nat) :
    readReturns n s = { s with reader := .between } := if_pos h

theorem answerRead_of_reading {s : State} (h : s.reader = .reading) (f : State → State) : answerRead f s = f s := by
  simp only [answerRead, h]

/-- A read that is not in progress is not answered. -/
theorem answerRead_of_not_reading {s : State} (h : s.reader ≠ .reading) (f : State → State) : answerRead f s = s := by
  unfold answerRead
  split
  · next hr => exact absurd hr h
  · rfl

theorem step_readData {s : State} {n : Nat} {rest : List Event} (h : s.agenda = .readData n :: rest) :
    step s = .next (answerRead (readReturns n) { s with agenda := rest }) := step_cons h

/-- A transition does the same whatever `stop` is (R10, R212 (e)). -/
theorem applyTrans_stop (t : Trans) (b : Byte) (s : State) (x : Bool) :
    applyTrans t b { s with stop := x } = { applyTrans t b s with stop := x } := by
  have honto : applyTrans t b { s with stop := x } = (applyTrans t b s).onto { s with stop := x } :=
    applyTrans_onto (s := s) (u := { s with stop := x }) t b rfl
  have hw := applyTrans_writeDomain t b s
  rw [WriteDomain] at hw
  rw [honto, hw]
  rfl

/-- Settles O52: each place of the reader has its own step, and none but the one between reads looks at `stop`. -/
theorem readerLoop : Obligations.ReaderLoop := by
  intro s
  refine ⟨fun ha hr hs => ?_, fun ha hr hs => ?_, fun ha hr => ?_, fun rest ha hr => ?_, fun rest ha hr => ?_,
    fun ho hr => ⟨fun ha => ?_, fun n rest ha => ?_⟩, fun hc hr => ⟨fun ha => ?_, fun n rest ha => ?_⟩,
    fun hr n rest ha => ?_, fun b left ha hr hinv => ?_⟩
  · rw [step_idle ha]
    simp only [readerStep, hr, beginIteration, hs, if_true]
  · rw [step_idle ha]
    simp only [readerStep, hr, beginIteration, hs, Bool.false_eq_true, if_false]
  · rw [step_idle ha]
    simp only [readerStep, hr]
  · rw [step_cons ha]
    exact congrArg _ (answerRead_of_reading (s := { s with agenda := rest }) hr _)
  · rw [step_cons ha]
    exact congrArg _ (answerRead_of_reading (s := { s with agenda := rest }) hr _)
  · have hsize : s.par.scratchSize ≠ 0 := Nat.succ_ne_zero _
    rw [step_idle ha]
    simp only [readerStep, hr, readReturns_of_open ho, hsize, false_or, Nat.min_self]
  · rw [step_readData ha, answerRead_of_reading (s := { s with agenda := rest }) hr,
      readReturns_of_open (s := { s with agenda := rest }) ho]
  · rw [step_idle ha]
    simp only [readerStep, hr, readReturns_of_closed hc]
  · rw [step_readData ha, answerRead_of_reading (s := { s with agenda := rest }) hr,
      readReturns_of_closed (s := { s with agenda := rest }) hc]
  · rw [step_readData ha, answerRead_of_not_reading (s := { s with agenda := rest }) hr]
  · obtain ⟨t, ht⟩ := exists_selectTrans (par := s.par) hinv.live b
    have hstep : ∀ x, step { s with stop := x } =
        .next { applyTrans t b { s with reader := afterTake left } with stop := x } := fun x => by
      rw [step_idle (s := { s with stop := x }) ha, readerStep_feeding (s := { s with stop := x }) hr ht,
        exec_transInstr (s := { s with stop := x }) hr (fun e => selectTrans_sync (e ▸ ht)) ht, ← applyTrans_stop]
    rw [hstep, hstep]

/-! ### Reset -/

/-- Settles O53: the values of `State.reset`. -/
theorem resetValues : Obligations.ResetValues := ⟨rfl, rfl, rfl, rfl, rfl, rfl, rfl, rfl, rfl⟩

theorem reset_parserInv : State.reset.parser.Inv := Parser.returnToSearch_inv Parser.reset

theorem reset_queueInv : State.reset.QueueInv := ⟨Nat.zero_le _, Nat.zero_le _, nofun⟩

theorem reset_sendInv : State.reset.SendInv := ⟨nofun, List.nodup_nil, rfl⟩

theorem reset_callInv : State.reset.CallInv := ⟨nofun, List.nodup_nil, nofun, nofun⟩

theorem reset_wakeInv : State.reset.WakeInv := ⟨nofun, Nat.zero_le _⟩

/-- The action bytes are the values of a one-to-one map at five bytes (R5). -/
theorem params_distinct : Config.params.distinct := by
  have h : ([0, 1, 2, 3, 4] : List Byte).Nodup := by decide
  exact h.map Config.sysCode.injective

/-- Settles O54: nothing is queued, sent or called at reset, and the parser is in search. -/
theorem invariantsHoldAtReset : Obligations.InvariantsHoldAtReset :=
  ⟨reset_parserInv, reset_queueInv, reset_sendInv, reset_callInv, reset_wakeInv, params_distinct⟩

end Sys2Proof.Proofs
end

section
/-!
The read side (43_queue.md R153 to R161): what a receive ends with or waits for, the same taken one acquisition of the lock
at a time, the waits on the notifier, and the frame of all of them.
-/

open Sys2Proof Sys2Proof.Machine Sys2Proof.Stated

namespace Sys2Proof.Proofs

/-! ### The filter of a port -/

/-- The statements' filter is the model's (R158). -/
theorem accepts_iff (role : Role) (p : Packet) : role.accepts p = true ↔ letsThrough role p := by
  cases role <;> simp [Role.accepts, letsThrough]

theorem accepts_eq_false {role : Role} {p : Packet} (h : ¬ letsThrough role p) : role.accepts p = false :=
  Bool.eq_false_iff.mpr fun ha => h ((accepts_iff role p).mp ha)

/-! ### A receive as one operation -/

section
variable {s : State} {role : Role}

theorem receive_of_found {p : Packet} {rest : List Packet} (limit : Option Limit)
    (h : firstAccepted role s.q = (some p, rest)) :
    receive role limit s =
      { s with q := rest, nextCall := s.nextCall + 1, out := s.out ++ [.received s.nextCall (.ok p)] } := by
  simp only [receive, h]
  rfl

theorem receive_attempt_of_none (h : firstAccepted role s.q = (none, [])) :
    receive role none s =
      { s with q := [], nextCall := s.nextCall + 1, out := s.out ++ [.received s.nextCall .none] } := by
  simp only [receive, h]
  rfl

/-- A receive that finds nothing after its own ending has come ends so (log entry 8). -/
theorem receive_ended_of_none {l : Limit} (h : firstAccepted role s.q = (none, [])) (he : ended l s = true) :
    receive role (some l) s =
      { s with q := [], nextCall := s.nextCall + 1, out := s.out ++ [.received s.nextCall l.recvCode] } := by
  simp only [receive, h, if_pos he]
  rfl

theorem receive_waits_of_none {l : Limit} (h : firstAccepted role s.q = (none, [])) (he : ended l s = false) :
    receive role (some l) s = { s with
      q := [], nextCall := s.nextCall + 1
      calls := s.calls ++ [⟨s.nextCall, .receive role, some l, .waiting⟩] } := by
  simp only [receive, h, he, Bool.false_eq_true, if_false]

/-- The queue as a receive goes through it, in the statements' terms (R159). -/
theorem firstAccepted_of_split {skipped rest : List Packet} {p : Packet} (hq : s.q = skipped ++ p :: rest)
    (hs : ∀ x ∈ skipped, ¬ letsThrough role x) (hp : letsThrough role p) :
    firstAccepted role s.q = (some p, rest) := by
  rw [hq]
  exact firstAccepted_append (fun x hx => accepts_eq_false (hs x hx)) ((accepts_iff role p).mpr hp)

theorem firstAccepted_of_none (hs : ∀ x ∈ s.q, ¬ letsThrough role x) : firstAccepted role s.q = (none, []) :=
  firstAccepted_all_skipped fun x hx => accepts_eq_false (hs x hx)

end

theorem ended_deadline {t : Nat} {s : State} : ended (.deadline t) s = true ↔ t ≤ s.now := by simp [ended]

theorem ended_cancel {sig : Nat} {s : State} : ended (.cancel sig) s = true ↔ sig ∈ s.fired := by simp [ended]

/-- Settles O36: whatever the shape, the filtered loop stops at the first accepted entry. -/
theorem receiveTakesFirstAccepted : Obligations.ReceiveTakesFirstAccepted := by
  intro s role shape skipped rest p hq hs hp
  rw [exec_receive, receive_of_found _ (firstAccepted_of_split hq hs hp)]

/-- Settles O37: the limit of the shape, and whether it has come, decide. -/
theorem receiveFindsNothing : Obligations.ReceiveFindsNothing := by
  intro s role hs
  have hnone := firstAccepted_of_none hs
  refine ⟨?_, ?_, fun d => ?_, ?_, fun sig => ⟨fun h => ?_, fun h => ?_⟩⟩ <;> rw [exec_receive]
  · exact congrArg _ (receive_attempt_of_none hnone)
  · exact congrArg _ (receive_ended_of_none hnone (ended_deadline.mpr (Nat.le_refl _)))
  · refine congrArg _ (receive_waits_of_none hnone (Bool.eq_false_iff.mpr fun he => ?_))
    have hle := ended_deadline.mp he
    omega
  · exact congrArg _ (receive_waits_of_none hnone rfl)
  · exact congrArg _ (receive_ended_of_none hnone (ended_cancel.mpr h))
  · exact congrArg _ (receive_waits_of_none hnone (Bool.eq_false_iff.mpr fun he => h (ended_cancel.mp he)))

/-- Settles O43: each of the three kinds of operation stays on the read side. -/
theorem readSideLeavesTheRest : Obligations.ReadSideLeavesTheRest := by
  intro s t role shape l h
  have hside : ReadSide s t := by
    obtain h | h | h := h
    · rw [exec_receive] at h
      cases h
      exact receive_readSide role _ s
    · cases h
      exact dequeued_readSide s
    · cases h
      exact waitNotifier_readSide l s
  exact ⟨hside.frame, hside.queue, hside.count⟩

/-! ### A receive step by step -/

/-- A receive just made at `s`, about to look at the queue, which is `q` by now. -/
def looping (role : Role) (shape : Shape) (q : List Packet) (s : State) : State :=
  { startReceive role shape s with q := q }

/-- A receive just made at `s` that has emptied the queue and waits for a count or its limit. -/
def waitingOn (role : Role) (l : Limit) (s : State) : State :=
  { s with
      q := [], nextCall := s.nextCall + 1
      calls := s.calls ++ [⟨s.nextCall, .receive role, some l, .waiting⟩] }

/-- A receive made at `s` has left the queue `q` and ended. -/
def endedWith (r : RecvResult) (q : List Packet) (s : State) : State :=
  { s with q := q, nextCall := s.nextCall + 1, out := s.out ++ [.received s.nextCall r] }

section
variable {s t : State} {calls : List Call} {c : Call} (hfresh : ∀ x ∈ calls, x.id ≠ c.id) (ht : t.calls = calls ++ [c])
include hfresh ht

/-- A call with a number of its own, last in the list, is found under its number. -/
theorem findCall_last : findCall c.id t = some c := by
  rw [findCall, ht, List.find?_append, List.find?_eq_none.mpr (by simpa using hfresh)]
  simp

/-- It alone leaves the list when it returns. -/
theorem dropCall_last : dropCall c.id t = { t with calls := calls } := by
  have hkeep : calls.filter (fun x => x.id != c.id) = calls := List.filter_eq_self.mpr (by simpa using hfresh)
  simp only [dropCall, ht, List.filter_append, hkeep]
  simp

/-- It alone goes to another place of its loop. -/
theorem setCallPhase_last (ph : CallPhase) :
    setCallPhase c.id ph t = { t with calls := calls ++ [{ c with phase := ph }] } := by
  have hkeep : calls.map (fun x => if x.id = c.id then { x with phase := ph } else x) = calls :=
    (List.map_congr_left fun x hx => if_neg (hfresh x hx)).trans (List.map_id' calls)
  simp only [setCallPhase, ht, List.map_append, hkeep]
  simp

end

section
variable {s : State} (hfresh : ∀ c ∈ s.calls, c.id ≠ s.nextCall) (role : Role) (shape : Shape)
include hfresh

theorem callStep_looping (q : List Packet) :
    callStep s.nextCall (looping role shape q s) =
      receiveStep s.nextCall role (shape.limit s.now) (looping role shape q s) := by
  have hfind : findCall s.nextCall (looping role shape q s) =
      some ⟨s.nextCall, .receive role, shape.limit s.now, .ready⟩ :=
    findCall_last (c := ⟨s.nextCall, .receive role, shape.limit s.now, .ready⟩) hfresh rfl
  simp only [callStep, hfind]

theorem endReceive_looping (r : RecvResult) (q : List Packet) :
    endReceive s.nextCall r (looping role shape q s) = endedWith r q s := by
  have hdrop : dropCall s.nextCall (looping role shape q s) = { looping role shape q s with calls := s.calls } :=
    dropCall_last (c := ⟨s.nextCall, .receive role, shape.limit s.now, .ready⟩) hfresh rfl
  rw [endReceive, hdrop]
  rfl

/-- The turn that meets an accepted packet. -/
theorem callStep_accepted {p : Packet} (hp : letsThrough role p) (rest : List Packet) :
    callStep s.nextCall (looping role shape (p :: rest) s) = endedWith (.ok p) rest s := by
  rw [callStep_looping hfresh, ← endReceive_looping hfresh role shape]
  show (if role.accepts p then _ else _) = _
  rw [if_pos ((accepts_iff role p).mpr hp)]
  rfl

/-- The turn that meets a packet the port does not let through. -/
theorem callStep_skipped {p : Packet} (hp : ¬ letsThrough role p) (rest : List Packet) :
    callStep s.nextCall (looping role shape (p :: rest) s) = looping role shape rest s := by
  rw [callStep_looping hfresh]
  show (if role.accepts p then _ else _) = _
  rw [if_neg (fun h => hp ((accepts_iff role p).mp h))]
  rfl

/-- The turn of an attempt that meets the empty queue (R155, R161). -/
theorem callStep_empty_attempt :
    callStep s.nextCall (looping role .attempt [] s) = endedWith .none [] s := by
  rw [callStep_looping hfresh, ← endReceive_looping hfresh role .attempt]
  rfl

/-- The turn of any other shape that meets the empty queue (R156). -/
theorem callStep_empty_waits {l : Limit} (hl : shape.limit s.now = some l) :
    callStep s.nextCall (looping role shape [] s) = waitingOn role l s := by
  have hwait : setCallPhase s.nextCall .waiting (looping role shape [] s) =
      { looping role shape [] s with
          calls := s.calls ++ [⟨s.nextCall, .receive role, shape.limit s.now, .waiting⟩] } :=
    setCallPhase_last (c := ⟨s.nextCall, .receive role, shape.limit s.now, .ready⟩) hfresh rfl .waiting
  rw [callStep_looping hfresh, hl]
  show setCallPhase s.nextCall .waiting (looping role shape [] s) = _
  rw [hwait, hl]
  rfl

/-- The entries a port does not accept are passed over, one acquisition of the lock each (R159). -/
theorem callSteps_skip {skipped : List Packet} (hs : ∀ x ∈ skipped, ¬ letsThrough role x) (rest : List Packet) :
    callSteps s.nextCall (skipped.length + 1) (looping role shape (skipped ++ rest) s) =
      callStep s.nextCall (looping role shape rest s) := by
  induction skipped with
  | nil => rfl
  | cons x skipped ih =>
    rw [List.forall_mem_cons] at hs
    rw [List.length_cons, callSteps, List.cons_append, callStep_skipped hfresh role shape hs.1]
    exact ih hs.2

/-- Where nothing is accepted the steps come to the empty queue. -/
theorem callSteps_none (hs : ∀ x ∈ s.q, ¬ letsThrough role x) :
    callSteps s.nextCall (s.q.length + 1) (startReceive role shape s) =
      callStep s.nextCall (looping role shape [] s) := by
  have h := callSteps_skip hfresh role shape hs []
  rwa [List.append_nil] at h

theorem endReceive_waitingOn (r : RecvResult) (l : Limit) :
    endReceive s.nextCall r (waitingOn role l s) = endedWith r [] s := by
  have hdrop : dropCall s.nextCall (waitingOn role l s) = { waitingOn role l s with calls := s.calls } :=
    dropCall_last (c := ⟨s.nextCall, .receive role, some l, .waiting⟩) hfresh rfl
  rw [endReceive, hdrop]
  rfl

theorem findCall_waitingOn (l : Limit) :
    findCall s.nextCall (waitingOn role l s) = some ⟨s.nextCall, .receive role, some l, .waiting⟩ :=
  findCall_last (c := ⟨s.nextCall, .receive role, some l, .waiting⟩) hfresh rfl

/-- EXPIRE of a receive that waits for a deadline that has passed (R154, R156). -/
theorem expire_waitingOn {t : Nat} (ht : t ≤ s.now) :
    expire s.nextCall (waitingOn role (.deadline t) s) = endedWith .timeout [] s := by
  have he : ended (.deadline t) (waitingOn role (.deadline t) s) = true := ended_deadline.mpr ht
  simp only [expire, findCall_waitingOn hfresh role, endByLimit, he, if_true, endReceive_waitingOn hfresh role]
  rfl

/-- ABORT of a receive whose signal has fired (R154, R157). -/
theorem abort_waitingOn {sig : Nat} (hsig : sig ∈ s.fired) :
    abort s.nextCall (waitingOn role (.cancel sig) s) = endedWith .cancelled [] s := by
  have he : ended (.cancel sig) (waitingOn role (.cancel sig) s) = true := ended_cancel.mpr hsig
  simp only [abort, findCall_waitingOn hfresh role, endByLimit, he, if_true, endReceive_waitingOn hfresh role]
  rfl

end

/-- Settles O39: the turns pass over what the filter passes over, and the last one, or the end of the wait, gives the result
of the operation. -/
theorem receiveStepsGiveWholeReceive : Obligations.ReceiveStepsGiveWholeReceive := by
  intro s role shape hfresh
  refine ⟨fun skipped rest p hq hs hp => ?_, fun hs => ?_⟩
  · have hstart : startReceive role shape s = looping role shape (skipped ++ p :: rest) s := by rw [looping, ← hq]; rfl
    rw [exec_receive, receive_of_found _ (firstAccepted_of_split hq hs hp), hstart, callSteps_skip hfresh role shape hs,
      callStep_accepted hfresh role shape hp]
    rfl
  have hnone := firstAccepted_of_none hs
  have hwaits : ∀ {l : Limit}, shape.limit s.now = some l → ended l s = false →
      exec (receiveInstr role shape) s =
        .next (callSteps s.nextCall (s.q.length + 1) (startReceive role shape s)) := fun hl he => by
    rw [exec_receive, hl, receive_waits_of_none hnone he, callSteps_none hfresh role shape hs,
      callStep_empty_waits hfresh role shape hl]
    rfl
  simp only [callSteps_none hfresh role shape hs] at hwaits ⊢
  refine ⟨?_, ?_, ?_, fun sig => ?_⟩
  · rintro (rfl | rfl)
    · rw [exec_receive, callStep_empty_attempt hfresh role]
      exact congrArg _ (receive_attempt_of_none hnone)
    · exact hwaits rfl rfl
  · rintro rfl
    rw [exec_receive, callStep_empty_waits (l := .deadline s.now) hfresh role _ rfl,
      expire_waitingOn hfresh role (Nat.le_refl _)]
    exact congrArg _ (receive_ended_of_none hnone (ended_deadline.mpr (Nat.le_refl _)))
  · rintro d rfl
    refine hwaits rfl (Bool.eq_false_iff.mpr fun he => ?_)
    have hle := ended_deadline.mp he
    omega
  · rintro rfl
    refine ⟨fun hsig => ?_, fun hsig => ?_⟩
    · rw [exec_receive, callStep_empty_waits hfresh role _ rfl, abort_waitingOn hfresh role hsig]
      exact congrArg _ (receive_ended_of_none hnone (ended_cancel.mpr hsig))
    · exact hwaits rfl (Bool.eq_false_iff.mpr fun he => hsig (ended_cancel.mp he))

/-! ### Waiting on the notifier -/

/-- Settles O40: the step taken is WAKE, the call's own ending, or none. -/
theorem waitNotifierTakesAnEnabledStep : Obligations.WaitNotifierTakesAnEnabledStep := by
  intro s l
  have hexec : exec (.waitNotifier l) s = .next (waitNotifier l s) := rfl
  rw [hexec]
  obtain ⟨n, ⟨hc, h⟩ | ⟨he, h⟩ | ⟨hc, he, h⟩⟩ := waitNotifier_cases l s <;> rw [h] <;> refine ⟨n, ?_⟩
  · have hc0 : s.notifyCount ≠ 0 := Nat.pos_iff_ne_zero.mp hc
    exact ⟨fun _ _ => rfl, fun _ _ _ h0 => absurd h0 hc0, fun _ _ _ h0 => absurd h0 hc0, fun h0 => absurd h0 hc0,
      fun _ _ _ _ => .inl rfl, fun _ _ _ _ => .inl rfl⟩
  · refine ⟨fun _ hf => ?_, ?_, ?_, fun _ hf => ?_, ?_, ?_⟩
    · simp [he] at hf
    · rintro t rfl - -
      rfl
    · rintro sig rfl - -
      rfl
    · simp [he] at hf
    · rintro t rfl - -
      exact .inr rfl
    · rintro sig rfl - -
      exact .inr rfl
  · refine ⟨fun h0 => ?_, ?_, ?_, fun _ _ => rfl, fun _ _ _ h0 => ?_, fun _ _ _ h0 => ?_⟩
    · omega
    · rintro t rfl ht -
      simp [ended_deadline.mpr ht] at he
    · rintro sig rfl hsig -
      simp [ended_cancel.mpr hsig] at he
    · omega
    · omega

section
variable {s : State} {id : Nat} {rest : List Event}

theorem step_wake (h : s.agenda = .wake id :: rest) : step s = .next (wake id { s with agenda := rest }) := step_cons h

theorem step_expire (h : s.agenda = .expire id :: rest) : step s = .next (expire id { s with agenda := rest }) :=
  step_cons h

theorem step_abort (h : s.agenda = .abort id :: rest) : step s = .next (abort id { s with agenda := rest }) :=
  step_cons h

theorem wake_of_no_count (h : s.notifyCount = 0) : wake id s = s := if_neg (by omega)

theorem wake_of_receive {role : Role} {l : Option Limit} (hc : 0 < s.notifyCount)
    (h : findCall id s = some ⟨id, .receive role, l, .waiting⟩) : wake id s = setCallPhase id .ready (takeCount s) := by
  simp only [wake, if_pos hc, h]

theorem wake_of_wait {l : Option Limit} (hc : 0 < s.notifyCount) (h : findCall id s = some ⟨id, .wait, l, .waiting⟩) :
    wake id s = endWait id .woken (takeCount s) := by
  simp only [wake, if_pos hc, h]

end

/-- Settles O41: a count is there or not, and the call is a receive or a wait on its own. -/
theorem wakeTakesOneCount : Obligations.WakeTakesOneCount := by
  intro s id l rest ha
  rw [step_wake ha]
  refine ⟨fun role h => ⟨fun hc => ?_, fun hc => ?_⟩, fun h => ⟨fun hc => ?_, fun hc => ?_⟩⟩
  · rw [wake_of_no_count (s := { s with agenda := rest }) hc]
  · rw [wake_of_receive (s := { s with agenda := rest }) hc h]
    rfl
  · rw [wake_of_no_count (s := { s with agenda := rest }) hc]
  · rw [wake_of_wait (s := { s with agenda := rest }) hc h]
    rfl

section
variable {s : State} {id : Nat} {kind : CallKind} {l : Limit}

/-- What the end of a wait by its limit does once that has come (R154). -/
theorem endByLimit_of_ended (he : ended l s = true) :
    endByLimit id kind l s = output (match kind with
      | .receive _ => .received id l.recvCode
      | .wait => .waited id l.waitCode) (dropCall id s) := by
  unfold endByLimit
  rw [if_pos he]
  cases kind <;> rfl

theorem endByLimit_of_not_ended (he : ¬ ended l s = true) : endByLimit id kind l s = s := if_neg he

theorem expire_of_waiting {t : Nat} (h : findCall id s = some ⟨id, kind, some (.deadline t), .waiting⟩) :
    expire id s = endByLimit id kind (.deadline t) s := by
  simp only [expire, h]

theorem abort_of_waiting {sig : Nat} (h : findCall id s = some ⟨id, kind, some (.cancel sig), .waiting⟩) :
    abort id s = endByLimit id kind (.cancel sig) s := by
  simp only [abort, h]

end

/-- Settles O42: the limit has come or not. -/
theorem waitEndsOnlyByItsLimit : Obligations.WaitEndsOnlyByItsLimit := by
  intro s id kind rest
  refine ⟨fun t ha h => ?_, fun sig ha h => ?_⟩
  · rw [step_expire ha, expire_of_waiting (s := { s with agenda := rest }) h]
    refine ⟨fun hlt => ?_, fun hle => ?_⟩
    · rw [endByLimit_of_not_ended (s := { s with agenda := rest })
        (fun he => absurd (ended_deadline.mp he) (Nat.not_le.mpr hlt))]
    · rw [endByLimit_of_ended (s := { s with agenda := rest }) (ended_deadline.mpr hle)]
      cases kind <;> rfl
  · rw [step_abort ha, abort_of_waiting (s := { s with agenda := rest }) h]
    refine ⟨fun hsig => ?_, fun hsig => ?_⟩
    · rw [endByLimit_of_not_ended (s := { s with agenda := rest }) (fun he => hsig (ended_cancel.mp he))]
    · rw [endByLimit_of_ended (s := { s with agenda := rest }) (ended_cancel.mpr hsig)]
      cases kind <;> rfl

end Sys2Proof.Proofs
end

section
/-!
The send side (44_encoder_send.md R188 to R192): what a send ends with or waits for, and the same taken line by line.
-/

open Sys2Proof Sys2Proof.Machine Sys2Proof.Stated

namespace Sys2Proof.Proofs

/-! ### A send as one operation -/

/-- The statements' right to send is the model's (R190). -/
theorem maySend_iff (role : Role) (p : Packet) : role.maySend p = true ↔ mayBeSent role p := by
  cases role <;> simp [Role.maySend, mayBeSent]

theorem exec_trySend (role : Role) (d : Draft) (s : State) : exec (.trySend role d) s = .next (send role d s) := rfl

/-- The state after a send made at `s` has put `wire` on the output stream and returned. -/
def sentWith (r : SendResult) (wire : List Byte) (s : State) : State :=
  { s with nextSend := s.nextSend + 1, tx := s.tx ++ wire, out := s.out ++ [.sent s.nextSend r] }

/-- The state after a send made at `s` that has written nothing has returned. -/
def turnedAway (r : SendResult) (s : State) : State :=
  { s with nextSend := s.nextSend + 1, out := s.out ++ [.sent s.nextSend r] }

section
variable {s : State} {role : Role} {d : Draft}

theorem send_of_no_packet (hd : d.construct = none) : send role d s = turnedAway .constructionError s := by
  simp only [send, hd]
  rfl

variable {p : Packet} (hd : d.construct = some p)
include hd

theorem send_of_not_permitted (hp : ¬ mayBeSent role p) : send role d s = turnedAway .refused s := by
  simp only [send, hd, if_neg (fun h => hp ((maySend_iff role p).mp h))]
  rfl

variable (hp : mayBeSent role p)
include hp

/-- A held token makes the sender wait with its frame serialised (R189 lines 1 and 2). -/
theorem send_of_held (ht : s.sendToken = .held) :
    send role d s = { s with
      nextSend := s.nextSend + 1, sends := s.sends ++ [⟨s.nextSend, encodePacket s.par p, .acquire⟩] } := by
  simp only [send, hd, if_pos ((maySend_iff role p).mpr hp), ht, reduceCtorEq, if_false]

/-- A free one lets it write, and it gets what the stream answers (R189 lines 2 to 4). -/
theorem send_of_free (ht : s.sendToken = .free) :
    send role d s =
      sentWith (wireWrite (encodePacket s.par p) s).2 (wireWrite (encodePacket s.par p) s).1 s := by
  simp only [send, hd, if_pos ((maySend_iff role p).mpr hp), if_pos ht]
  rfl

end

section
variable {s : State} (bytes : List Byte)

theorem wireWrite_of_open (hs : s.shutdown ≠ .closed) (hw : s.writeFault = none) :
    wireWrite bytes s = (bytes, .success) := by
  simp only [wireWrite, if_neg hs, hw]

/-- A failing write leaves as many bytes as the environment has set, on an open stream and on a closed one (R191, R235). -/
theorem wireWrite_of_fault {k : Nat} (hw : s.writeFault = some k) : wireWrite bytes s = (bytes.take k, .writeError) := by
  by_cases hs : s.shutdown = .closed
  · simp only [wireWrite, if_pos hs, hw, Option.getD_some]
  · simp only [wireWrite, if_neg hs, hw]

/-- A closed stream for which none is set takes nothing (log entry 9). -/
theorem wireWrite_of_closed (hs : s.shutdown = .closed) (hw : s.writeFault = none) :
    wireWrite bytes s = ([], .writeError) := by
  simp only [wireWrite, if_pos hs, hw, Option.getD_none, List.take_zero]

end

/-- Settles O44: the token is free and the stream takes every byte. -/
theorem trySendWritesWholeFrame : Obligations.TrySendWritesWholeFrame := by
  intro s role d p hd hp ht hs hw
  rw [exec_trySend, send_of_free hd hp ht, wireWrite_of_open _ hs hw]
  rfl

/-- Settles O45: each of lines 0 to 3 that does not let the send go on. -/
theorem trySendTurnsAwayWaitsOrFails : Obligations.TrySendTurnsAwayWaitsOrFails := by
  intro s role d
  refine ⟨fun hd => ?_, fun p hd hp => ?_, fun p hd hp => ⟨fun ht => ?_, fun k ht hw => ?_, fun ht hs hw => ?_⟩⟩ <;>
    rw [exec_trySend]
  · rw [send_of_no_packet hd]
    rfl
  · rw [send_of_not_permitted hd hp]
    rfl
  · rw [send_of_held hd hp ht]
  · rw [send_of_free hd hp ht, wireWrite_of_fault _ hw]
    rfl
  · rw [send_of_free hd hp ht, wireWrite_of_closed _ hs hw, sentWith, List.append_nil]

/-- Settles O48: each of the three stays on the send side. -/
theorem sendingLeavesReceiveSide : Obligations.SendingLeavesReceiveSide := by
  intro s t role d id h
  have hside : SendSide s t := by
    obtain h | rfl | rfl := h
    · cases h
      exact send_sendSide role d s
    · exact sendStep_sendSide id s
    · exact startSend_sendSide role d s
  exact hside.frame

/-! ### A send line by line -/

/-- A send just made at `s`, with its serialised frame: where it stands, the token, and the output stream. -/
def sending (bytes : List Byte) (ph : SendPhase) (token : Token) (tx : List Byte) (s : State) : State :=
  { s with
      nextSend := s.nextSend + 1, sendToken := token, tx := tx
      sends := s.sends ++ [⟨s.nextSend, bytes, ph⟩] }

section
variable {s : State} {role : Role} {d : Draft}

theorem startSend_of_no_packet (hd : d.construct = none) : startSend role d s = turnedAway .constructionError s := by
  simp only [startSend, hd]
  rfl

theorem startSend_of_not_permitted {p : Packet} (hd : d.construct = some p) (hp : ¬ mayBeSent role p) :
    startSend role d s = turnedAway .refused s := by
  simp only [startSend, hd, if_neg (fun h => hp ((maySend_iff role p).mp h))]
  rfl

theorem startSend_of_permitted {p : Packet} (hd : d.construct = some p) (hp : mayBeSent role p) :
    startSend role d s = sending (encodePacket s.par p) .acquire s.sendToken s.tx s := by
  simp only [startSend, hd, if_pos ((maySend_iff role p).mpr hp)]
  rfl

end

section
variable {s : State} (hfresh : ∀ x ∈ s.sends, x.id ≠ s.nextSend)
include hfresh

/-- A send that was turned away is not in progress: no line of it is left. -/
theorem sendStep_turnedAway (r : SendResult) : sendStep s.nextSend (turnedAway r s) = turnedAway r s := by
  have hnone : findSend s.nextSend (turnedAway r s) = none :=
    List.find?_eq_none.mpr (by simpa [turnedAway] using hfresh)
  simp only [sendStep, hnone]

theorem sendSteps_turnedAway (n : Nat) (r : SendResult) : sendSteps s.nextSend n (turnedAway r s) = turnedAway r s := by
  induction n with
  | zero => rfl
  | succ n ih => rw [sendSteps, sendStep_turnedAway hfresh, ih]

variable (bytes : List Byte) (ph : SendPhase) (token : Token) (tx : List Byte)

theorem findSend_sending : findSend s.nextSend (sending bytes ph token tx s) = some ⟨s.nextSend, bytes, ph⟩ := by
  have hbefore : s.sends.find? (fun x => x.id == s.nextSend) = none := List.find?_eq_none.mpr (by simpa using hfresh)
  simp [findSend, sending, List.find?_append, hbefore]

theorem setSendPhase_sending (ph' : SendPhase) :
    setSendPhase s.nextSend ph' (sending bytes ph token tx s) = sending bytes ph' token tx s := by
  have hkeep : s.sends.map (fun x => if x.id = s.nextSend then { x with phase := ph' } else x) = s.sends :=
    (List.map_congr_left fun x hx => if_neg (hfresh x hx)).trans (List.map_id' s.sends)
  simp only [setSendPhase, sending, List.map_append, hkeep]
  simp

/-- Line 2 (R189). -/
theorem sendStep_acquire :
    sendStep s.nextSend (sending bytes .acquire .free tx s) = sending bytes .write .held tx s := by
  have hfind := findSend_sending hfresh bytes .acquire .free tx
  simp only [sendStep, hfind]
  exact setSendPhase_sending hfresh bytes .acquire .held tx .write

/-- Line 3. -/
theorem sendStep_write :
    sendStep s.nextSend (sending bytes .write token tx s) =
      sending bytes (.release (wireWrite bytes s).2) token (tx ++ (wireWrite bytes s).1) s := by
  have hfind := findSend_sending hfresh bytes .write token tx
  simp only [sendStep, hfind]
  exact setSendPhase_sending hfresh bytes .write token (tx ++ (wireWrite bytes s).1) _

/-- Line 4. -/
theorem sendStep_release (hfree : s.sendToken = .free) (r : SendResult) (wire : List Byte) :
    sendStep s.nextSend (sending bytes (.release r) token (s.tx ++ wire) s) = sentWith r wire s := by
  have hfind := findSend_sending hfresh bytes (.release r) token (s.tx ++ wire)
  have hkeep : s.sends.filter (fun x => x.id != s.nextSend) = s.sends :=
    List.filter_eq_self.mpr (by simpa using hfresh)
  have hdone : (sending bytes (.release r) token (s.tx ++ wire) s).sends.filter (fun x => x.id != s.nextSend) =
      s.sends := by
    simp [sending, List.filter_append, hkeep]
  simp only [sendStep, hfind, hdone, ← hfree]
  rfl

end

/-- Settles O47: a send that is turned away has no further line, and the lines of any other are those of the operation. -/
theorem sendLinesGiveWholeSend : Obligations.SendLinesGiveWholeSend := by
  intro s role d hfresh hfree
  rw [exec_trySend]
  refine congrArg _ ?_
  cases hd : d.construct with
  | none => rw [send_of_no_packet hd, startSend_of_no_packet hd, sendSteps_turnedAway hfresh]
  | some p =>
    by_cases hp : mayBeSent role p
    · rw [send_of_free hd hp hfree, startSend_of_permitted hd hp, hfree, sendSteps, sendStep_acquire hfresh, sendSteps,
        sendStep_write hfresh, sendSteps, sendStep_release hfresh _ _ hfree]
      rfl
    · rw [send_of_not_permitted hd hp, startSend_of_not_permitted hd hp, sendSteps_turnedAway hfresh]

end Sys2Proof.Proofs
end

section
/-!
What every step keeps (10_state.md R30, 20_memory.md R49 to R51, 43_queue.md R165 to R167): sticky bits and streams, the order
and the bounds of the queue, the send token, the calls in progress and their wake-ups.
-/

open Sys2Proof Sys2Proof.Machine Sys2Proof.Stated

namespace Sys2Proof.Proofs

/-! ### What no step takes back -/

theorem agent_onward {s t : State} (h : Agent s t) : s.Onward t := by
  cases h with
  | parsed bytes r =>
    have hw := parseBytes_writeDomain bytes { s with reader := r }
    have hg := parseBytes_grows bytes { s with reader := r }
    rw [WriteDomain] at hw
    rw [hw]
    exact ⟨rfl, hg.overflow, id, List.prefix_refl _, List.prefix_refl _, fun _ h => h, Nat.le_refl _⟩
  | consumer t h =>
    rw [h.readSide.frame]
    exact ⟨rfl, id, id, List.prefix_refl _, h.readSide.results, fun _ h => h, Nat.le_refl _⟩
  | sender t h =>
    rw [h.sendSide.frame]
    exact ⟨rfl, id, id, h.sendSide.wire, h.sendSide.results, fun _ h => h, Nat.le_refl _⟩
  | caller o => exact ⟨rfl, id, id, List.prefix_refl _, List.prefix_append .., fun _ h => h, Nat.le_refl _⟩
  | around t h =>
    rw [h.frame]
    exact ⟨rfl, id, h.stop, List.prefix_refl _, List.prefix_refl _, h.fired, h.time⟩

/-- Settles O59: each agent only adds to what it writes, and sets what is sticky. -/
theorem stepOnlyGoesOnward : Obligations.StepOnlyGoesOnward := by
  intro s t hstep
  obtain ⟨rest, ha⟩ := step_agent hstep
  have h := agent_onward ha
  exact ⟨h.par, h.overflow, h.stop, h.wire, h.results, h.fired, h.time⟩

/-! ### The queue -/

theorem agent_queue {s t : State} (h : Agent s t) : t.q <:+ s.q ∨ s.q <+: t.q := by
  cases h with
  | parsed bytes r => exact .inr (parseBytes_grows bytes { s with reader := r }).queue
  | consumer t h => exact .inl h.readSide.queue
  | sender t h =>
    rw [h.sendSide.frame]
    exact .inl (List.suffix_refl _)
  | caller o => exact .inl (List.suffix_refl _)
  | around t h =>
    rw [h.frame]
    exact .inl (List.suffix_refl _)

/-- Settles O60: bytes add at the tail, consumers take from the head, and nobody else moves the queue. -/
theorem queueMovesInOrder : Obligations.QueueMovesInOrder := by
  intro s t hstep
  obtain ⟨rest, ha⟩ := step_agent hstep
  exact agent_queue (s := { s with agenda := rest }) ha

/-- Entries and counts may be taken at any time (R30 (f), (g)). -/
theorem queueInv_of_taken {s t : State} (h : s.QueueInv) (hpar : t.par = s.par) (hq : t.q <:+ s.q)
    (hn : t.notifyCount ≤ s.notifyCount) : t.QueueInv where
  depth := hpar ▸ Nat.le_trans hq.length_le h.depth
  count := hpar ▸ Nat.le_trans hn h.count
  packet p hp := h.packet p (hq.mem hp)

/-- A valid Packet is added only where there is room, and a count only below `NOTIFY_CAP` (R150 to R152). -/
theorem enqueue_queueInv {s : State} (h : s.QueueInv) {x : Packet} (hx : x.valid = true) : (enqueue x s).QueueInv := by
  obtain ⟨hroom, he⟩ | ⟨-, he⟩ := enqueue_cases x s <;> rw [he]
  · refine ⟨?_, ?_, ?_⟩
    · show (s.q ++ [x]).length ≤ s.par.queueDepth
      rw [List.length_append, List.length_singleton]
      omega
    · show (if s.notifyCount < s.par.notifyCap then s.notifyCount + 1 else s.notifyCount) ≤ s.par.notifyCap
      have hcount := h.count
      split <;> omega
    · intro p hp
      obtain hp | hp := List.mem_append.mp hp
      · exact h.packet p hp
      · exact List.mem_singleton.mp hp ▸ hx
  · exact ⟨h.depth, h.count, h.packet⟩

theorem parseBytes_queueInv {s : State} (h : s.QueueInv) (bytes : List Byte) : (parseBytes bytes s).QueueInv := by
  induction bytes generalizing s with
  | nil => exact h
  | cons b bytes ih =>
    refine ih ?_
    obtain ⟨p, hp⟩ | ⟨x, p, hx, hp⟩ := parseByte_cases s b <;> rw [hp]
    · exact ⟨h.depth, h.count, h.packet⟩
    · have he := enqueue_queueInv h hx
      exact ⟨he.depth, he.count, he.packet⟩

theorem agent_queueInv {s t : State} (hinv : s.QueueInv) (h : Agent s t) : t.QueueInv := by
  cases h with
  | parsed bytes r =>
    exact parseBytes_queueInv (s := { s with reader := r }) ⟨hinv.depth, hinv.count, hinv.packet⟩ bytes
  | consumer t h =>
    have hs := h.readSide
    exact queueInv_of_taken hinv (by rw [hs.frame]) hs.queue hs.count
  | sender t h =>
    rw [h.sendSide.frame]
    exact ⟨hinv.depth, hinv.count, hinv.packet⟩
  | caller o => exact ⟨hinv.depth, hinv.count, hinv.packet⟩
  | around t h =>
    rw [h.frame]
    exact ⟨hinv.depth, hinv.count, hinv.packet⟩

/-- Settles O56: bytes add within the bounds, consumers take, and nobody else touches queue or notifier. -/
theorem stepKeepsQueueInvariant : Obligations.StepKeepsQueueInvariant := by
  intro s t hinv hstep
  obtain ⟨rest, ha⟩ := step_agent hstep
  exact agent_queueInv (s := { s with agenda := rest }) ⟨hinv.depth, hinv.count, hinv.packet⟩ ha

/-! ### Lists of things with numbers of their own -/

section
variable {α : Type} {num : α → Nat} {id : Nat} {l before after : List α} {a : α}

/-- The one thing with a number, and those before and after it, which have others. -/
theorem split_of_find (hn : (l.map num).Nodup) (h : l.find? (fun x => num x == id) = some a) :
    num a = id ∧ ∃ before after, l = before ++ a :: after ∧ ∀ x ∈ before ++ after, num x ≠ id := by
  have ha : num a = id := by simpa using List.find?_some h
  obtain ⟨before, after, rfl⟩ := List.append_of_mem (List.mem_of_find?_eq_some h)
  refine ⟨ha, before, after, rfl, fun x hx he => ?_⟩
  have hperm : (before ++ a :: after).Perm (a :: (before ++ after)) := List.perm_middle
  have hn' := (hperm.map num).nodup_iff.mp hn
  rw [List.map_cons, List.nodup_cons] at hn'
  exact hn'.1 (ha ▸ he ▸ List.mem_map_of_mem hx)

/-- To take it out leaves the others. -/
theorem filter_split (ha : num a = id) (h : ∀ x ∈ before ++ after, num x ≠ id) :
    (before ++ a :: after).filter (fun x => num x != id) = before ++ after := by
  have hkeep : ∀ l : List α, (∀ x ∈ l, num x ≠ id) → l.filter (fun x => num x != id) = l := fun l hl =>
    List.filter_eq_self.mpr (by simpa using hl)
  rw [List.filter_append, List.filter_cons_of_neg (by simp [ha]),
    hkeep before fun x hx => h x (List.mem_append_left _ hx),
    hkeep after fun x hx => h x (List.mem_append_right _ hx)]

/-- To change it leaves the others as they are. -/
theorem map_split (ha : num a = id) (h : ∀ x ∈ before ++ after, num x ≠ id) (g : α → α) :
    (before ++ a :: after).map (fun x => if num x = id then g x else x) = before ++ g a :: after := by
  have hkeep : ∀ l : List α, (∀ x ∈ l, num x ≠ id) → l.map (fun x => if num x = id then g x else x) = l := fun l hl =>
    (List.map_congr_left fun x hx => if_neg (hl x hx)).trans (List.map_id' l)
  rw [List.map_append, List.map_cons, if_pos ha, hkeep before fun x hx => h x (List.mem_append_left _ hx),
    hkeep after fun x hx => h x (List.mem_append_right _ hx)]

/-- Counting those of a kind: the one and the others. -/
theorem length_filter_split (p : α → Bool) :
    ((before ++ a :: after).filter p).length = ((before ++ after).filter p).length + if p a then 1 else 0 := by
  rw [List.filter_append, List.filter_append, List.filter_cons]
  split <;> simp only [List.length_append, List.length_cons] <;> omega

end

/-! ### The send token -/

/-- Sends that are no longer in progress need no number. -/
theorem sendInv_of_eq {s t : State} (h : s.SendInv) (hs : t.sends = s.sends) (hn : s.nextSend ≤ t.nextSend)
    (ht : t.sendToken = s.sendToken) : t.SendInv where
  fresh x hx := Nat.lt_of_lt_of_le (h.fresh x (hs ▸ hx)) hn
  nodup := hs ▸ h.nodup
  holder := by rw [hs, ht]; exact h.holder

/-- A send with a new number, not yet past line 2, does not hold the token (R189). -/
theorem sendInv_of_begun {s t : State} (h : s.SendInv) {bytes : List Byte}
    (hs : t.sends = s.sends ++ [⟨s.nextSend, bytes, .acquire⟩]) (hn : t.nextSend = s.nextSend + 1)
    (ht : t.sendToken = s.sendToken) : t.SendInv where
  fresh x hx := by
    rw [hs, List.mem_append, List.mem_singleton] at hx
    rw [hn]
    obtain hx | rfl := hx
    · exact Nat.lt_succ_of_lt (h.fresh x hx)
    · exact Nat.lt_succ_self _
  nodup := by
    rw [hs, List.map_append, List.map_singleton]
    refine List.nodup_append.mpr ⟨h.nodup, List.nodup_singleton _, ?_⟩
    simpa using fun x hx => Nat.ne_of_lt (h.fresh x hx)
  holder := by
    rw [hs, ht, List.filter_append]
    simpa [Send.holds] using h.holder

/-- A line of a send in progress changes that send's place and the token together. -/
theorem sendInv_of_line {s t : State} (h : s.SendInv) {x : Send} {ph : SendPhase} {before after : List Send}
    (hs : s.sends = before ++ x :: after) (ht : t.sends = before ++ { x with phase := ph } :: after)
    (hn : t.nextSend = s.nextSend)
    (hholder : ((before ++ after).filter Send.holds).length + (if ph = .acquire then 0 else 1) =
      if t.sendToken = .held then 1 else 0) : t.SendInv where
  fresh y hy := by
    rw [ht, List.mem_append, List.mem_cons] at hy
    rw [hn]
    have hmem : ∀ z, z ∈ before ∨ z = x ∨ z ∈ after → z.id < s.nextSend := fun z hz =>
      h.fresh z (by rw [hs, List.mem_append, List.mem_cons]; exact hz)
    obtain hy | rfl | hy := hy
    · exact hmem y (.inl hy)
    · exact hmem x (.inr (.inl rfl))
    · exact hmem y (.inr (.inr hy))
  nodup := by
    have hnodup := h.nodup
    rw [hs, List.map_append, List.map_cons] at hnodup
    rw [ht, List.map_append, List.map_cons]
    exact hnodup
  holder := by
    rw [ht, length_filter_split, ← hholder]
    cases ph <;> rfl

/-- Each line of a send keeps the token with one sender or none (R189). -/
theorem sendStep_sendInv {s : State} (h : s.SendInv) (id : Nat) : (sendStep id s).SendInv := by
  have hholder := h.holder
  obtain ⟨bytes, hf, hfree, ht⟩ | ⟨bytes, hf, ht⟩ | ⟨bytes, r, hf, ht⟩ | ht := sendStep_cases id s <;> rw [ht]
  · obtain ⟨hid, before, after, hs, hothers⟩ := split_of_find h.nodup hf
    rw [hs, length_filter_split, hfree] at hholder
    refine sendInv_of_line h (ph := .write) hs ?_ rfl ?_
    · show s.sends.map _ = _
      rw [hs]
      exact map_split (num := Send.id) hid hothers _
    · have hnone : ((before ++ after).filter Send.holds).length = 0 := hholder
      exact congrArg Nat.succ hnone
  · obtain ⟨hid, before, after, hs, hothers⟩ := split_of_find h.nodup hf
    rw [hs, length_filter_split] at hholder
    refine sendInv_of_line h (ph := .release (wireWrite bytes s).2) hs ?_ rfl ?_
    · show s.sends.map _ = _
      rw [hs]
      exact map_split (num := Send.id) hid hothers _
    · exact hholder
  · obtain ⟨hid, before, after, hs, hothers⟩ := split_of_find h.nodup hf
    rw [hs, length_filter_split] at hholder
    have hleft : s.sends.filter (fun x => x.id != id) = before ++ after := by
      rw [hs]
      exact filter_split (num := Send.id) hid hothers
    have hsub : (s.sends.filter (fun x => x.id != id)).Sublist s.sends := List.filter_sublist
    refine ⟨fun x hx => h.fresh x (hsub.mem hx), h.nodup.sublist (hsub.map _), ?_⟩
    show ((s.sends.filter (fun x => x.id != id)).filter Send.holds).length = 0
    have hone : ((before ++ after).filter Send.holds).length + 1 = if s.sendToken = .held then 1 else 0 := hholder
    rw [hleft]
    split at hone <;> omega
  · exact h

theorem agent_sendInv {s t : State} (hinv : s.SendInv) (h : Agent s t) : t.SendInv := by
  cases h with
  | parsed bytes r =>
    have hw := parseBytes_writeDomain bytes { s with reader := r }
    rw [WriteDomain] at hw
    rw [hw]
    exact ⟨hinv.fresh, hinv.nodup, hinv.holder⟩
  | consumer t h =>
    rw [h.readSide.frame]
    exact ⟨hinv.fresh, hinv.nodup, hinv.holder⟩
  | sender t h =>
    cases h with
    | sent role d =>
      obtain ⟨bytes, r, h⟩ | ⟨bytes, -, h⟩ := send_cases role d s <;> rw [h]
      · exact sendInv_of_eq hinv rfl (Nat.le_succ _) rfl
      · exact sendInv_of_begun hinv rfl rfl rfl
    | begun role d =>
      obtain ⟨r, h⟩ | ⟨p, -, -, h⟩ := startSend_cases role d s <;> rw [h]
      · exact sendInv_of_eq hinv rfl (Nat.le_succ _) rfl
      · exact sendInv_of_begun hinv rfl rfl rfl
    | line id => exact sendStep_sendInv hinv id
  | caller o => exact ⟨hinv.fresh, hinv.nodup, hinv.holder⟩
  | around t h =>
    rw [h.frame]
    exact ⟨hinv.fresh, hinv.nodup, hinv.holder⟩

/-- Settles O57: a sender's own lines move the token with the sender, and nobody else touches either. -/
theorem stepKeepsSendInvariant : Obligations.StepKeepsSendInvariant := by
  intro s t hinv hstep
  obtain ⟨rest, ha⟩ := step_agent hstep
  exact agent_sendInv (s := { s with agenda := rest }) ⟨hinv.fresh, hinv.nodup, hinv.holder⟩ ha

end Sys2Proof.Proofs
end

section
/-!
The calls in progress (10_state.md R26, 43_queue.md R154 to R167): their numbers and waits, the wake-ups that are not lost, and
which packets a step hands over to whom.
-/

open Sys2Proof Sys2Proof.Machine Sys2Proof.Stated

namespace Sys2Proof.Proofs

/-! ### Numbers and waits -/

section
variable {s t : State} (h : s.CallInv)
include h

/-- Calls that have returned need no number. -/
theorem callInv_of_sublist (hc : t.calls.Sublist s.calls) (hn : s.nextCall ≤ t.nextCall) : t.CallInv where
  fresh c hm := Nat.lt_of_lt_of_le (h.fresh c (hc.mem hm)) hn
  nodup := h.nodup.sublist (hc.map _)
  blocked c hm := h.blocked c (hc.mem hm)
  waits c hm := h.waits c (hc.mem hm)

/-- A receive with a new number, waiting with a limit or about to look. -/
theorem callInv_of_begun {role : Role} {limit : Option Limit} {ph : CallPhase}
    (hc : t.calls = s.calls ++ [⟨s.nextCall, .receive role, limit, ph⟩]) (hn : t.nextCall = s.nextCall + 1)
    (hl : ph = .waiting → limit.isSome = true) : t.CallInv where
  fresh c hm := by
    rw [hc, List.mem_append, List.mem_singleton] at hm
    rw [hn]
    obtain hm | rfl := hm
    · exact Nat.lt_succ_of_lt (h.fresh c hm)
    · exact Nat.lt_succ_self _
  nodup := by
    rw [hc, List.map_append, List.map_singleton]
    refine List.nodup_append.mpr ⟨h.nodup, List.nodup_singleton _, ?_⟩
    simpa using fun c hm => Nat.ne_of_lt (h.fresh c hm)
  blocked c hm := by
    rw [hc, List.mem_append, List.mem_singleton] at hm
    obtain hm | rfl := hm
    · exact h.blocked c hm
    · exact hl
  waits c hm := by
    rw [hc, List.mem_append, List.mem_singleton] at hm
    obtain hm | rfl := hm
    · exact h.waits c hm
    · exact nofun

/-- A receive in progress goes to another place of its loop, to the wait only if it has a limit. -/
theorem callInv_of_moved {c : Call} {role : Role} {ph : CallPhase} {before after : List Call}
    (hs : s.calls = before ++ c :: after) (ht : t.calls = before ++ { c with phase := ph } :: after)
    (hn : t.nextCall = s.nextCall) (hk : c.kind = .receive role) (hl : ph = .waiting → c.limit.isSome = true) :
    t.CallInv := by
  have hmem : ∀ {x}, x ∈ before ∨ x = c ∨ x ∈ after → x ∈ s.calls := fun hx => by
    rw [hs, List.mem_append, List.mem_cons]
    exact hx
  have hcases : ∀ {x}, x ∈ t.calls → x ∈ s.calls ∨ x = { c with phase := ph } := fun hx => by
    rw [ht, List.mem_append, List.mem_cons] at hx
    obtain hx | hx | hx := hx
    · exact .inl (hmem (.inl hx))
    · exact .inr hx
    · exact .inl (hmem (.inr (.inr hx)))
  refine ⟨fun x hx => ?_, ?_, fun x hx => ?_, fun x hx => ?_⟩
  · rw [hn]
    obtain hx | rfl := hcases hx
    · exact h.fresh x hx
    · exact h.fresh c (hmem (.inr (.inl rfl)))
  · have hnodup := h.nodup
    rw [hs, List.map_append, List.map_cons] at hnodup
    rw [ht, List.map_append, List.map_cons]
    exact hnodup
  · obtain hx | rfl := hcases hx
    · exact h.blocked x hx
    · exact hl
  · obtain hx | rfl := hcases hx
    · exact h.waits x hx
    · intro hw
      cases hk.symm.trans hw

/-- A call's number names it alone. -/
theorem findCall_of_mem {c : Call} (hm : c ∈ s.calls) : findCall c.id s = some c := by
  cases hf : findCall c.id s with
  | none => simpa using List.find?_eq_none.mp hf c hm
  | some d =>
    obtain ⟨hd, hid⟩ := findCall_some hf
    rw [List.inj_on_of_nodup_map h.nodup hd hm hid]

end

/-! ### Wake-ups -/

/-- Every call in progress is about to look or blocked. -/
theorem looking_add_blocked (s : State) : s.looking + s.blocked = s.calls.length := by
  have hneg : s.calls.filter (fun c => c.phase == .waiting) = s.calls.filter (fun c => !(c.phase == .ready)) :=
    List.filter_congr fun c _ => by cases c.phase <;> rfl
  rw [State.looking, State.blocked, hneg]
  exact (List.length_eq_length_filter_add _).symm

/-- With an empty queue there is nothing to wake up for. -/
theorem wakeInv_of_empty {t : State} (hq : t.q = []) (hloops : ∀ c ∈ t.calls, c.kind ≠ .wait) : t.WakeInv where
  loops := hloops
  counts := by rw [hq, List.length_nil, Nat.zero_min]; exact Nat.zero_le _

section
variable {s t : State} (h : s.WakeInv)
include h

/-- Packets may be taken by anybody. -/
theorem wakeInv_of_taken (hq : t.q.length ≤ s.q.length) (hc : t.calls = s.calls) (hn : t.notifyCount = s.notifyCount) :
    t.WakeInv where
  loops := hc ▸ h.loops
  counts := by
    have hcounts := h.counts
    rw [hn, State.looking, hc]
    rw [State.looking] at hcounts
    omega

/-- A receive just made is about to look. -/
theorem wakeInv_of_begun {role : Role} {limit : Option Limit} (hq : t.q = s.q) (hn : t.notifyCount = s.notifyCount)
    (hc : t.calls = s.calls ++ [⟨s.nextCall, .receive role, limit, .ready⟩]) : t.WakeInv where
  loops c hm := by
    rw [hc, List.mem_append, List.mem_singleton] at hm
    obtain hm | rfl := hm
    · exact h.loops c hm
    · exact nofun
  counts := by
    have hcounts := h.counts
    have hlook : t.looking = s.looking + 1 := by simp [State.looking, hc]
    have hlen : t.calls.length = s.calls.length + 1 := by simp [hc]
    rw [hq, hn, hlook, hlen]
    omega

section
variable {c : Call} {before after : List Call} (hs : s.calls = before ++ c :: after)
include hs

theorem loops_of_dropped (ht : t.calls = before ++ after) : ∀ x ∈ t.calls, x.kind ≠ .wait := fun x hx => by
  refine h.loops x ?_
  rw [ht, List.mem_append] at hx
  rw [hs, List.mem_append, List.mem_cons]
  exact hx.imp_right .inr

theorem loops_of_moved {ph : CallPhase} (ht : t.calls = before ++ { c with phase := ph } :: after) :
    ∀ x ∈ t.calls, x.kind ≠ .wait := fun x hx => by
  have hmem : ∀ {y}, y ∈ before ∨ y = c ∨ y ∈ after → y.kind ≠ .wait := fun hy =>
    h.loops _ (by rw [hs, List.mem_append, List.mem_cons]; exact hy)
  rw [ht, List.mem_append, List.mem_cons] at hx
  obtain hx | rfl | hx := hx
  · exact hmem (.inl hx)
  · exact hmem (y := c) (.inr (.inl rfl))
  · exact hmem (.inr (.inr hx))

/-- A call that returns takes a packet with it if it was about to look, and none if it was blocked. -/
theorem wakeInv_of_dropped (ht : t.calls = before ++ after) (hn : t.notifyCount = s.notifyCount)
    (hq : t.q.length + (if c.phase = .ready then 1 else 0) ≤ s.q.length) : t.WakeInv where
  loops := loops_of_dropped h hs ht
  counts := by
    have hcounts := h.counts
    have hlook : s.looking = t.looking + if c.phase = .ready then 1 else 0 := by
      rw [State.looking, State.looking, hs, ht, length_filter_split]
      simp
    have hlen : s.calls.length = t.calls.length + 1 := by
      rw [hs, ht]
      simp only [List.length_append, List.length_cons]
      omega
    rw [hn]
    split at hlook <;> simp_all <;> omega

/-- A call that wakes turns its count into a look. -/
theorem wakeInv_of_woken (ht : t.calls = before ++ { c with phase := .ready } :: after) (hw : c.phase = .waiting)
    (hq : t.q = s.q) (hn : t.notifyCount = s.notifyCount - 1) : t.WakeInv where
  loops := loops_of_moved h hs ht
  counts := by
    have hcounts := h.counts
    have hlook : t.looking = s.looking + 1 := by
      rw [State.looking, State.looking, hs, ht, length_filter_split, length_filter_split]
      simp [hw]
    have hlen : t.calls.length = s.calls.length := by rw [hs, ht]; simp
    rw [hq, hn, hlook, hlen]
    omega

end

/-- A packet brings a count with it, unless the notifier is at `NOTIFY_CAP`, where there is a count for every blocked call. -/
theorem enqueue_wakeInv (hb : s.blocked ≤ s.par.notifyCap) (x : Packet) : (enqueue x s).WakeInv := by
  have hcounts := h.counts
  have hall := looking_add_blocked s
  obtain ⟨-, he⟩ | ⟨-, he⟩ := enqueue_cases x s <;> rw [he]
  · refine ⟨h.loops, ?_⟩
    show min (s.q ++ [x]).length s.calls.length ≤
      (if s.notifyCount < s.par.notifyCap then s.notifyCount + 1 else s.notifyCount) + s.looking
    rw [List.length_append, List.length_singleton]
    split <;> omega
  · exact ⟨h.loops, hcounts⟩

theorem parseBytes_wakeInv (hb : s.blocked ≤ s.par.notifyCap) (bytes : List Byte) : (parseBytes bytes s).WakeInv := by
  induction bytes generalizing s with
  | nil => exact h
  | cons b bytes ih =>
    have hw := parseByte_writeDomain s b
    rw [WriteDomain] at hw
    have hb' : (parseByte s b).blocked ≤ (parseByte s b).par.notifyCap := by rw [hw]; exact hb
    refine ih ?_ hb'
    obtain ⟨p, hp⟩ | ⟨x, p, -, hp⟩ := parseByte_cases s b <;> rw [hp]
    · exact ⟨h.loops, h.counts⟩
    · have he := enqueue_wakeInv h hb x
      exact ⟨he.loops, he.counts⟩

end

/-! ### Consumers' steps -/

theorem tryDequeue_state (s : State) : (tryDequeue s).2 = { s with q := s.q.tail } := by
  unfold tryDequeue
  split
  · next hq => rw [hq, List.tail_nil, ← hq]
  · next p q hq => rw [hq, List.tail_cons]

/-- A receive that finds nothing and waits has emptied the queue (R159). -/
theorem receive_answers_or_waits (role : Role) (limit : Option Limit) (s : State) :
    (∃ r, receive role limit s = endedWith r (firstAccepted role s.q).2 s ∧
      ∀ p, r = .ok p → role.accepts p = true) ∨ ∃ l, receive role limit s = waitingOn role l s := by
  cases hf : firstAccepted role s.q with
  | mk found rest =>
    cases found with
    | some p =>
      obtain ⟨-, -, hp, -⟩ := firstAccepted_some hf
      exact .inl ⟨.ok p, receive_of_found limit hf, fun _ e => RecvResult.ok.inj e ▸ hp⟩
    | none =>
      obtain ⟨rfl, -⟩ := firstAccepted_none hf
      cases limit with
      | none => exact .inl ⟨.none, receive_attempt_of_none hf, nofun⟩
      | some l =>
        cases he : ended l s
        · exact .inr ⟨l, receive_waits_of_none hf he⟩
        · exact .inl ⟨l.recvCode, receive_ended_of_none hf he, by cases l <;> exact nofun⟩

/-- The call with a number, alone in its place, after it has returned. -/
theorem dropCall_split {s : State} {id : Nat} {c : Call} {before after : List Call} (hs : s.calls = before ++ c :: after)
    (hid : c.id = id) (hothers : ∀ x ∈ before ++ after, x.id ≠ id) : (dropCall id s).calls = before ++ after := by
  show s.calls.filter _ = _
  rw [hs]
  exact filter_split (num := Call.id) hid hothers

/-- After it has gone to another place of its loop. -/
theorem setCallPhase_split {s : State} {id : Nat} {c : Call} {before after : List Call}
    (hs : s.calls = before ++ c :: after) (hid : c.id = id) (hothers : ∀ x ∈ before ++ after, x.id ≠ id)
    (ph : CallPhase) : (setCallPhase id ph s).calls = before ++ { c with phase := ph } :: after := by
  show s.calls.map _ = _
  rw [hs]
  exact map_split (num := Call.id) hid hothers _

theorem dropCall_callInv {s t : State} (h : s.CallInv) {id : Nat} (hc : t.calls = (dropCall id s).calls)
    (hn : t.nextCall = s.nextCall) : t.CallInv :=
  callInv_of_sublist h (hc ▸ List.filter_sublist) (Nat.le_of_eq hn.symm)

theorem callStep_callInv {s : State} (h : s.CallInv) (id : Nat) : (callStep id s).CallInv := by
  obtain ⟨role, limit, hf, ht⟩ | ht := callStep_cases id s <;> rw [ht]
  · obtain ⟨p, q, -, -, ht⟩ | ⟨p, q, -, -, ht⟩ | ⟨-, -, ht⟩ | ⟨l, -, hl, ht⟩ := receiveStep_cases id role limit s <;>
      rw [ht]
    · exact dropCall_callInv h rfl rfl
    · exact ⟨h.fresh, h.nodup, h.blocked, h.waits⟩
    · exact dropCall_callInv h rfl rfl
    · obtain ⟨hid, before, after, hs, hothers⟩ := split_of_find h.nodup hf
      exact callInv_of_moved h hs (setCallPhase_split hs hid hothers .waiting) rfl rfl fun _ => by rw [hl]; rfl
  · exact h

theorem wake_callInv {s : State} (h : s.CallInv) (id : Nat) : (wake id s).CallInv := by
  obtain ⟨role, limit, -, hf, ht⟩ | ⟨limit, -, -, ht⟩ | ht := wake_cases id s <;> rw [ht]
  · obtain ⟨hid, before, after, hs, hothers⟩ := split_of_find h.nodup hf
    exact callInv_of_moved h hs (setCallPhase_split (s := takeCount s) hs hid hothers .ready) rfl rfl nofun
  · exact dropCall_callInv h rfl rfl
  · exact h

theorem readMove_callInv {s t : State} (h : s.CallInv) (hm : ReadMove s t) : t.CallInv := by
  cases hm with
  | received role limit =>
    obtain ⟨r, ht, -⟩ | ⟨l, ht⟩ := receive_answers_or_waits role limit s <;> rw [ht]
    · exact callInv_of_sublist h (List.Sublist.refl _) (Nat.le_succ _)
    · exact callInv_of_begun h rfl rfl fun _ => rfl
  | dequeued =>
    rw [tryDequeue_state]
    exact ⟨h.fresh, h.nodup, h.blocked, h.waits⟩
  | begun role shape => exact callInv_of_begun h rfl rfl nofun
  | called id => exact callStep_callInv h id
  | woken id => exact wake_callInv h id
  | expired id =>
    obtain ⟨kind, t, -, -, o, ht⟩ | ht := expire_cases id s <;> rw [ht]
    · exact dropCall_callInv h rfl rfl
    · exact h
  | aborted id =>
    obtain ⟨kind, sig, -, -, o, ht⟩ | ht := abort_cases id s <;> rw [ht]
    · exact dropCall_callInv h rfl rfl
    · exact h

section
variable {s : State} (h : s.CallInv) (hw : s.WakeInv)
include h hw

theorem callStep_wakeInv (id : Nat) : (callStep id s).WakeInv := by
  obtain ⟨role, limit, hf, ht⟩ | ht := callStep_cases id s <;> rw [ht]
  · obtain ⟨hid, before, after, hs, hothers⟩ := split_of_find h.nodup hf
    obtain ⟨p, q, hq, -, ht⟩ | ⟨p, q, hq, -, ht⟩ | ⟨hq, -, ht⟩ | ⟨l, hq, -, ht⟩ := receiveStep_cases id role limit s <;>
      rw [ht]
    · exact wakeInv_of_dropped hw hs (dropCall_split (s := { s with q := q }) hs hid hothers) rfl
        (by rw [hq]; exact Nat.le_refl _)
    · exact wakeInv_of_taken hw (by rw [hq]; exact Nat.le_succ _) rfl rfl
    · exact wakeInv_of_empty hq (loops_of_dropped hw hs (dropCall_split hs hid hothers))
    · exact wakeInv_of_empty hq (loops_of_moved hw hs (setCallPhase_split hs hid hothers .waiting))
  · exact hw

theorem wake_wakeInv (id : Nat) : (wake id s).WakeInv := by
  obtain ⟨role, limit, -, hf, ht⟩ | ⟨limit, -, hf, ht⟩ | ht := wake_cases id s <;> rw [ht]
  · obtain ⟨hid, before, after, hs, hothers⟩ := split_of_find h.nodup hf
    exact wakeInv_of_woken hw hs (setCallPhase_split (s := takeCount s) hs hid hothers .ready) rfl rfl rfl
  · exact absurd rfl (hw.loops _ (findCall_some hf).1)
  · exact hw

/-- A blocked call that its own limit ends takes neither packet nor count. -/
theorem endWaiting_wakeInv {id : Nat} {kind : CallKind} {l : Option Limit} (o : Output)
    (hf : findCall id s = some ⟨id, kind, l, .waiting⟩) : (output o (dropCall id s)).WakeInv := by
  obtain ⟨hid, before, after, hs, hothers⟩ := split_of_find h.nodup hf
  exact wakeInv_of_dropped hw hs (dropCall_split hs hid hothers) rfl (Nat.le_refl _)

theorem readMove_wakeInv {t : State} (hm : ReadMove s t) : t.WakeInv := by
  cases hm with
  | received role limit =>
    obtain ⟨r, ht, -⟩ | ⟨l, ht⟩ := receive_answers_or_waits role limit s <;> rw [ht]
    · exact wakeInv_of_taken hw (firstAccepted_suffix role s.q).length_le rfl rfl
    · refine wakeInv_of_empty rfl fun c hc => ?_
      obtain hc | hc := List.mem_append.mp hc
      · exact hw.loops c hc
      · rw [List.mem_singleton.mp hc]
        exact nofun
  | dequeued =>
    rw [tryDequeue_state]
    exact wakeInv_of_taken hw (List.tail_suffix s.q).length_le rfl rfl
  | begun role shape => exact wakeInv_of_begun hw rfl rfl rfl
  | called id => exact callStep_wakeInv h hw id
  | woken id => exact wake_wakeInv h hw id
  | expired id =>
    obtain ⟨kind, t, hf, -, o, ht⟩ | ht := expire_cases id s <;> rw [ht]
    · exact endWaiting_wakeInv h hw o hf
    · exact hw
  | aborted id =>
    obtain ⟨kind, sig, hf, -, o, ht⟩ | ht := abort_cases id s <;> rw [ht]
    · exact endWaiting_wakeInv h hw o hf
    · exact hw

end

/-! ### Every step -/

theorem agent_callInv {s t : State} (hinv : s.CallInv) (h : Agent s t) : t.CallInv := by
  cases h with
  | parsed bytes r =>
    have hw := parseBytes_writeDomain bytes { s with reader := r }
    rw [WriteDomain] at hw
    rw [hw]
    exact ⟨hinv.fresh, hinv.nodup, hinv.blocked, hinv.waits⟩
  | consumer t h => exact readMove_callInv hinv h
  | sender t h =>
    rw [h.sendSide.frame]
    exact ⟨hinv.fresh, hinv.nodup, hinv.blocked, hinv.waits⟩
  | caller o => exact ⟨hinv.fresh, hinv.nodup, hinv.blocked, hinv.waits⟩
  | around t h =>
    rw [h.frame]
    exact ⟨hinv.fresh, hinv.nodup, hinv.blocked, hinv.waits⟩

theorem agent_wakeInv {s t : State} (hinv : s.CallInv) (hw : s.WakeInv) (hb : s.blocked ≤ s.par.notifyCap)
    (h : Agent s t) : t.WakeInv := by
  cases h with
  | parsed bytes r => exact parseBytes_wakeInv (s := { s with reader := r }) ⟨hw.loops, hw.counts⟩ hb bytes
  | consumer t h => exact readMove_wakeInv hinv hw h
  | sender t h =>
    rw [h.sendSide.frame]
    exact ⟨hw.loops, hw.counts⟩
  | caller o => exact ⟨hw.loops, hw.counts⟩
  | around t h =>
    rw [h.frame]
    exact ⟨hw.loops, hw.counts⟩

theorem callStep_of_ready {s : State} {id : Nat} {role : Role} {limit : Option Limit}
    (h : findCall id s = some ⟨id, .receive role, limit, .ready⟩) : callStep id s = receiveStep id role limit s := by
  simp only [callStep, h]

/-- One turn of a receive removes the head of the queue, whether or not its port lets it through. -/
theorem receiveStep_tail {s : State} (hq : s.q ≠ []) (id : Nat) (role : Role) (limit : Option Limit) :
    (receiveStep id role limit s).q = s.q.tail := by
  obtain ⟨p, q, hpq, -, ht⟩ | ⟨p, q, hpq, -, ht⟩ | ⟨hpq, -⟩ | ⟨l, hpq, -⟩ := receiveStep_cases id role limit s
  · rw [ht, hpq]; rfl
  · rw [ht, hpq]; rfl
  · exact absurd hpq hq
  · exact absurd hpq hq

section
variable {s : State} (h : s.CallInv) (hw : s.WakeInv) {c : Call} (hc : c ∈ s.calls)
include hc

/-- Where nobody is about to look, a packet in the queue has a count for a blocked call (R167 (a)). -/
theorem count_pending (hl : s.looking = 0) (hq : s.q ≠ []) (hw : s.WakeInv) : 0 < s.notifyCount := by
  have hcounts := hw.counts
  have hlen := List.length_pos_iff.mpr hq
  have hcalls := List.length_pos_of_mem hc
  omega

include h hw

/-- A blocked call that wakes looks at the queue next, and its look removes the head. -/
theorem callStep_of_woken (hph : c.phase = .waiting) (hn : 0 < s.notifyCount) (hq : s.q ≠ []) :
    (wake c.id s).notifyCount + 1 = s.notifyCount ∧ (callStep c.id (wake c.id s)).q = s.q.tail := by
  obtain ⟨id, kind, limit, phase⟩ := c
  obtain rfl : phase = .waiting := hph
  cases kind with
  | wait => exact absurd rfl (hw.loops _ hc)
  | receive role =>
    have hf := findCall_of_mem h hc
    have hwake := wake_of_receive hn hf
    obtain ⟨hid, before, after, hs, hothers⟩ := split_of_find h.nodup hf
    have hmem : ⟨id, .receive role, limit, .ready⟩ ∈ (setCallPhase id .ready (takeCount s)).calls := by
      rw [setCallPhase_split (s := takeCount s) hs hid hothers .ready]
      exact List.mem_append_cons_self
    have hready := findCall_of_mem (hwake ▸ wake_callInv h id) hmem
    rw [hwake]
    refine ⟨Nat.sub_add_cancel hn, ?_⟩
    rw [callStep_of_ready hready]
    exact receiveStep_tail (s := setCallPhase id .ready (takeCount s)) hq id role limit

end

/-- Settles O58: the agent of the step keeps both invariants, by the moves it can make; where a call is blocked, a packet
queued and nobody about to look, the counts cover the packet, and the call's look after its wake removes the head. -/
theorem stepKeepsCallInvariant : Obligations.StepKeepsCallInvariant := by
  intro s t hinv
  refine ⟨fun hstep => ?_, fun hw hb hstep => ?_, fun c hc hw hl hph hq => ?_⟩
  · obtain ⟨rest, ha⟩ := step_agent hstep
    exact agent_callInv (s := { s with agenda := rest }) ⟨hinv.fresh, hinv.nodup, hinv.blocked, hinv.waits⟩ ha
  · obtain ⟨rest, ha⟩ := step_agent hstep
    exact agent_wakeInv (s := { s with agenda := rest }) ⟨hinv.fresh, hinv.nodup, hinv.blocked, hinv.waits⟩
      ⟨hw.loops, hw.counts⟩ hb ha
  · have hn := count_pending hc hl hq hw
    refine ⟨hn, fun rest ha => ⟨_, step_wake ha, ?_⟩⟩
    exact callStep_of_woken (s := { s with agenda := rest }) ⟨hinv.fresh, hinv.nodup, hinv.blocked, hinv.waits⟩
      ⟨hw.loops, hw.counts⟩ hc hph hn hq

end Sys2Proof.Proofs
end

section
/-!
Which packets a step hands over (43_queue.md R158 to R161): only a turn of a receive's loop, or a whole receive, answers a
packet, and it is one that the role's port lets through.
-/

open Sys2Proof Sys2Proof.Machine Sys2Proof.Stated

namespace Sys2Proof.Proofs

/-! ### The results a step adds -/

/-- The packet `p` is handed over to the call `id` between `s` and `t`. -/
def HandsOver (s t : State) (id : Nat) (p : Packet) : Prop := .received id (.ok p) ∈ t.out.drop s.out.length

section
variable {s t : State} {id : Nat} {p : Packet}

theorem not_handsOver_of_out_eq (h : t.out = s.out) : ¬ HandsOver s t id p := by
  simp [HandsOver, h]

theorem handsOver_of_output {o : Output} (h : t.out = s.out ++ [o]) : HandsOver s t id p ↔ o = .received id (.ok p) := by
  simp [HandsOver, h, eq_comm]

/-- A whole receive, or its wait, hands over what its port lets through, under the number it is given. -/
theorem receive_handsOver {role : Role} {limit : Option Limit} (h : HandsOver s (receive role limit s) id p) :
    id = s.nextCall ∧ role.accepts p = true := by
  obtain ⟨r, ht, hr⟩ | ⟨l, ht⟩ := receive_answers_or_waits role limit s <;> rw [ht] at h
  · obtain ⟨rfl, rfl⟩ := Output.received.inj ((handsOver_of_output rfl).mp h)
    exact ⟨rfl, hr p rfl⟩
  · exact absurd h (not_handsOver_of_out_eq rfl)

/-- A turn of a receive's loop hands over what its port lets through. -/
theorem receiveStep_handsOver {i : Nat} {role : Role} {limit : Option Limit}
    (h : HandsOver s (receiveStep i role limit s) id p) : i = id ∧ role.accepts p = true := by
  obtain ⟨x, q, -, hx, ht⟩ | ⟨x, q, -, -, ht⟩ | ⟨-, -, ht⟩ | ⟨l, -, -, ht⟩ := receiveStep_cases i role limit s <;>
    rw [ht] at h
  · obtain ⟨rfl, hr⟩ := Output.received.inj ((handsOver_of_output rfl).mp h)
    obtain rfl := RecvResult.ok.inj hr
    exact ⟨rfl, hx⟩
  · exact absurd h (not_handsOver_of_out_eq rfl)
  · exact nomatch (handsOver_of_output rfl).mp h
  · exact absurd h (not_handsOver_of_out_eq rfl)

/-- The end of a wait by its limit hands nothing over. -/
theorem endByLimit_handsOver {i : Nat} {kind : CallKind} {l : Limit} : ¬ HandsOver s (endByLimit i kind l s) id p := by
  intro h
  by_cases he : ended l s = true
  · rw [endByLimit_of_ended he] at h
    have ho := (handsOver_of_output rfl).mp h
    cases kind with
    | receive => cases l <;> exact nomatch ho
    | wait => exact nomatch ho
  · rw [endByLimit_of_not_ended he] at h
    exact not_handsOver_of_out_eq rfl h

theorem wake_handsOver (i : Nat) : ¬ HandsOver s (wake i s) id p := by
  intro h
  obtain ⟨role, limit, -, -, ht⟩ | ⟨limit, -, -, ht⟩ | ht := wake_cases i s <;> rw [ht] at h
  · exact not_handsOver_of_out_eq rfl h
  · exact nomatch (handsOver_of_output rfl).mp h
  · exact not_handsOver_of_out_eq rfl h

theorem expire_handsOver (i : Nat) : ¬ HandsOver s (expire i s) id p := by
  obtain ⟨kind, u, hf, -⟩ | ht := expire_cases i s
  · rw [expire_of_waiting hf]
    exact endByLimit_handsOver
  · rw [ht]
    exact not_handsOver_of_out_eq rfl

theorem abort_handsOver (i : Nat) : ¬ HandsOver s (abort i s) id p := by
  obtain ⟨kind, sig, hf, -⟩ | ht := abort_cases i s
  · rw [abort_of_waiting hf]
    exact endByLimit_handsOver
  · rw [ht]
    exact not_handsOver_of_out_eq rfl

/-- A send answers a send's result. -/
theorem sendMove_handsOver (hm : SendMove s t) : ¬ HandsOver s t id p := by
  intro h
  cases hm with
  | sent role d =>
    obtain ⟨bytes, r, ht⟩ | ⟨bytes, -, ht⟩ := send_cases role d s <;> rw [ht] at h
    · exact nomatch (handsOver_of_output rfl).mp h
    · exact not_handsOver_of_out_eq rfl h
  | begun role d =>
    obtain ⟨r, ht⟩ | ⟨x, -, -, ht⟩ := startSend_cases role d s <;> rw [ht] at h
    · exact nomatch (handsOver_of_output rfl).mp h
    · exact not_handsOver_of_out_eq rfl h
  | line i =>
    obtain ⟨bytes, -, -, ht⟩ | ⟨bytes, -, ht⟩ | ⟨bytes, r, -, ht⟩ | ht := sendStep_cases i s <;> rw [ht] at h
    · exact not_handsOver_of_out_eq rfl h
    · exact not_handsOver_of_out_eq rfl h
    · exact nomatch (handsOver_of_output rfl).mp h
    · exact not_handsOver_of_out_eq rfl h

/-! ### To whom -/

/-- The packet goes to a call in progress whose port lets it through, or to a call that gets its number now. -/
def TakenBy (s : State) (id : Nat) (p : Packet) : Prop :=
  (∃ role limit, findCall id s = some ⟨id, .receive role, limit, .ready⟩ ∧ role.accepts p = true) ∨ id = s.nextCall

theorem readMove_takenBy (hm : ReadMove s t) (h : HandsOver s t id p) : TakenBy s id p := by
  cases hm with
  | received role limit => exact .inr (receive_handsOver h).1
  | dequeued =>
    rw [tryDequeue_state] at h
    exact nomatch (handsOver_of_output rfl).mp h
  | begun role shape => exact absurd h (not_handsOver_of_out_eq rfl)
  | called i =>
    obtain ⟨role, limit, hf, ht⟩ | ht := callStep_cases i s <;> rw [ht] at h
    · obtain ⟨rfl, hp⟩ := receiveStep_handsOver h
      exact .inl ⟨role, limit, hf, hp⟩
    · exact absurd h (not_handsOver_of_out_eq rfl)
  | woken i => exact absurd h (wake_handsOver i)
  | expired i => exact absurd h (expire_handsOver i)
  | aborted i => exact absurd h (abort_handsOver i)

theorem agent_takenBy (ha : Agent s t) (h : HandsOver s t id p) : TakenBy s id p := by
  cases ha with
  | parsed bytes r =>
    have hw := parseBytes_writeDomain bytes { s with reader := r }
    rw [WriteDomain] at hw
    rw [hw] at h
    exact absurd h (not_handsOver_of_out_eq rfl)
  | consumer t hm => exact readMove_takenBy hm h
  | sender t hm => exact absurd h (sendMove_handsOver hm)
  | caller o ho => exact absurd ((handsOver_of_output rfl).mp h) (ho id _)
  | around t hs =>
    rw [hs.frame] at h
    exact absurd h (not_handsOver_of_out_eq rfl)

end

theorem step_receiveInstr {s : State} {role : Role} {shape : Shape} {rest : List Event}
    (h : s.agenda = .op (receiveInstr role shape) :: rest) :
    step s = .next (receive role (shape.limit s.now) { s with agenda := rest }) := by
  have hout : insideAnother (receiveInstr role shape) = false := by cases role <;> cases shape <;> rfl
  rw [step_op h, runOperation, hout]
  exact exec_receive role shape { s with agenda := rest }

/-- Settles O38: a call in progress is known by its number, so a packet handed over to it passed its own role's port; a
receive run whole looks through its own. -/
theorem hostNeverSurfacesHostPackets : Obligations.HostNeverSurfacesHostPackets := by
  refine ⟨fun s t shape h => ?_, fun s t role id p hinv hstep hout hwho => ?_⟩
  · rw [exec_receive] at h
    cases h
    obtain ⟨r, ht, hr⟩ | ⟨l, ht⟩ := receive_answers_or_waits .host (shape.limit s.now) s <;> rw [ht]
    · exact .inr ⟨r, rfl, fun p hp => (accepts_iff .host p).mp (hr p hp)⟩
    · exact .inl rfl
  · refine (accepts_iff role p).mp ?_
    obtain ⟨c, hc, rfl, hkind⟩ | ⟨shape, rest, ha⟩ := hwho
    · obtain ⟨rest, ha⟩ := step_agent hstep
      obtain ⟨role', limit, hf, hp⟩ | hid := agent_takenBy (s := { s with agenda := rest }) ha hout
      · have hcall := Option.some.inj ((findCall_of_mem hinv hc).symm.trans hf)
        rw [hcall] at hkind
        exact CallKind.receive.inj hkind ▸ hp
      · exact absurd hid (Nat.ne_of_lt (hinv.fresh c hc))
    · rw [step_receiveInstr ha] at hstep
      cases hstep
      exact (receive_handsOver (s := { s with agenda := rest }) hout).2

end Sys2Proof.Proofs
end

section
/-!
The write domain is the reader's alone (10_state.md R10; 60_exceptions.md R215 (1)): what the calls inside a parser step,
the transitions and the frames change, and that no step but one that takes a byte touches it.
-/

open Sys2Proof Sys2Proof.Machine Sys2Proof.Stated

namespace Sys2Proof.Proofs

/-! ### What the reader's operations change -/

/-- `t` differs from `s` at most in the write domain, the shared state and the reader's input, which is only added to. -/
structure ReaderSide (s t : State) : Prop where
  frame : t = { s with parser := t.parser, q := t.q, notifyCount := t.notifyCount, overflow := t.overflow
                       reader := t.reader, rx := t.rx }
  input : s.rx <+: t.rx

section
variable {s t : State}

theorem WriteDomain.readerSide {r : Reader} (h : WriteDomain { s with reader := r } t) : ReaderSide s t := by
  rw [WriteDomain] at h
  rw [h]
  exact ⟨rfl, List.prefix_refl _⟩

theorem arrive_readerSide (bytes : List Byte) (s : State) : ReaderSide s (arrive bytes s) :=
  ⟨rfl, List.prefix_append ..⟩

theorem takeTransition_readerSide {tr : Trans} {b : Byte} (h : takeTransition tr b s = .next t) : ReaderSide s t := by
  obtain ⟨-, u, r, -, rfl⟩ | rfl := takeTransition_next h
  · exact WriteDomain.readerSide (applyTrans_writeDomain u b { s with reader := r })
  · exact arrive_readerSide [b] s

theorem receiveFrame_readerSide {bytes : List Byte} (h : receiveFrame bytes s = .next t) : ReaderSide s t := by
  obtain ⟨-, -, rfl⟩ | rfl := receiveFrame_next h
  · exact WriteDomain.readerSide (parseBytes_writeDomain bytes { s with reader := .between })
  · exact arrive_readerSide bytes s

/-- A transition run as an instruction takes a byte: its operand, or the sync byte. -/
theorem exec_transInstr_taking (tr : Trans) (b : Byte) (s : State) :
    ∃ c, exec (transInstr tr b) s = takeTransition tr c s := by
  cases tr
  case searchSync => exact ⟨Config.sync, rfl⟩
  all_goals exact ⟨b, rfl⟩

theorem signal_writeDomain (s : State) : WriteDomain s (signal s) := rfl

/-- The reader's operations stay on its side (R10). -/
theorem exec_readerSide {i : Instr}
    (hi : (∃ tr b, i = transInstr tr b) ∨ (∃ bytes, frameBytes s.par i bytes) ∨ (∃ a f pl, i = .fnEmit a f pl) ∨
      i = .fnReturnToSearch ∨ i = .signal ∨ (∃ p : Packet, p.valid = true ∧ (i = .enqueue p ∨ i = .overflowDrop p)))
    (h : exec i s = .next t) : ReaderSide s t := by
  obtain ⟨tr, b, rfl⟩ | ⟨bytes, hb⟩ | ⟨a, f, pl, rfl⟩ | rfl | rfl | ⟨p, hv, rfl | rfl⟩ := hi
  · obtain ⟨c, hc⟩ := exec_transInstr_taking tr b s
    exact takeTransition_readerSide (hc.symm.trans h)
  · exact receiveFrame_readerSide ((exec_frame hb).symm.trans h)
  · cases h
    exact WriteDomain.readerSide (emit_writeDomain a f pl s)
  · cases h
    exact ⟨rfl, List.prefix_refl _⟩
  · cases h
    exact WriteDomain.readerSide (signal_writeDomain s)
  · rw [exec_enqueue hv] at h
    cases h
    exact WriteDomain.readerSide (enqueue_writeDomain p s)
  · rw [exec_overflowDrop hv] at h
    cases h
    exact ⟨rfl, List.prefix_refl _⟩

/-! ### A byte that the reader takes now, and one that it does not -/

/-- A byte that is not the next of the reader's read, and that no free reader meets, is not taken. -/
theorem fetchByte_none {b : Byte} (hr : ¬ ready s) (hf : ∀ left, s.reader ≠ .feeding (b :: left)) :
    fetchByte b s = none := by
  cases h : fetchByte b s with
  | none => rfl
  | some u =>
    obtain ⟨⟨left, hl⟩ | hfree, -⟩ := fetchByte_some h
    · exact absurd hl (hf left)
    · exact absurd (readerFree_iff.mp hfree) hr

theorem takeTransition_of_none {tr : Trans} {b : Byte} (h : fetchByte b s = none) :
    takeTransition tr b s = .next (arrive [b] s) := by
  rw [takeTransition, h]

theorem takeTransition_of_some {u : State} {tr : Trans} {b : Byte} (h : fetchByte b s = some u) :
    takeTransition tr b s = parserStep tr b u := by
  rw [takeTransition, h]

/-- A byte that arrives where the reader is free is taken as the only byte of a read (log entry 12). -/
theorem takeTransition_of_ready (hr : ready s) (tr : Trans) (b : Byte) :
    takeTransition tr b s = takeTransition tr b { s with reader := .feeding [b] } := by
  rw [takeTransition_of_some (fetchByte_free (readerFree_iff.mpr hr)),
    takeTransition_of_some (fetchByte_feeding (s := { s with reader := .feeding [b] }) rfl)]
  rfl

/-! ### The other agents -/

/-- What a step that takes no byte may do: consumers take packets and counts, and nobody touches the parser or
`overflow`. -/
structure OnlyTaken (s t : State) : Prop where
  parser   : t.parser = s.parser
  overflow : t.overflow = s.overflow
  count    : t.notifyCount ≤ s.notifyCount
  queue    : t.q <:+ s.q

theorem OnlyTaken.refl (s : State) : OnlyTaken s s := ⟨rfl, rfl, Nat.le_refl _, List.suffix_refl _⟩

theorem ReadSide.onlyTaken (h : ReadSide s t) : OnlyTaken s t :=
  ⟨by rw [h.frame], by rw [h.frame], h.count, h.queue⟩

theorem SendSide.onlyTaken (h : SendSide s t) : OnlyTaken s t := by
  rw [h.frame]
  exact ⟨rfl, rfl, Nat.le_refl _, List.suffix_refl _⟩

theorem Surroundings.onlyTaken (h : Surroundings s t) : OnlyTaken s t := by
  rw [h.frame]
  exact ⟨rfl, rfl, Nat.le_refl _, List.suffix_refl _⟩

/-- A transition or a frame whose bytes the reader does not take, and any other operation of an agent. -/
theorem exec_onlyTaken {i : Instr} (hi : insideAnother i = false) (h : exec i s = .next t)
    (htrans : ∀ tr b, (tr = .searchSync → b = Config.sync) → i = transInstr tr b → ¬ Takes s b)
    (hframe : ∀ bytes, frameBytes s.par i bytes → ¬ ready s) : OnlyTaken s t := by
  cases instrKind i with
  | transition tr b hb =>
    rw [exec_transition hb] at h
    obtain ⟨htakes, -⟩ | rfl := takeTransition_next h
    · exact absurd htakes (htrans tr b hb rfl)
    · exact (arrive_surroundings [b] s).onlyTaken
  | frame hbytes =>
    obtain ⟨bytes, hb⟩ := hbytes s.par
    rw [exec_frame hb, receiveFrame_of_not_ready (hframe bytes hb)] at h
    cases h
    exact (arrive_surroundings bytes s).onlyTaken
  | pure hpure =>
    obtain ⟨o, -, rfl⟩ := exec_pure hpure h
    exact ⟨rfl, rfl, Nat.le_refl _, List.suffix_refl _⟩
  | inside hinside => exact absurd (hi.symm.trans hinside) Bool.false_ne_true
  | receive role shape =>
    rw [exec_receive] at h
    cases h
    exact (receive_readSide role _ s).onlyTaken
  | send role d =>
    cases h
    exact (send_sendSide role d s).onlyTaken
  | shutdown =>
    cases h
    exact (beginShutdown_surroundings s).onlyTaken
  | tryDequeue =>
    cases h
    exact (dequeued_readSide s).onlyTaken

/-- The reader's own step without a byte to feed. -/
theorem readerStep_onlyTaken (h : readerStep s = .next t) (hf : ∀ b left, s.reader ≠ .feeding (b :: left)) :
    OnlyTaken s t := by
  obtain ⟨r, x, rfl⟩ | ⟨b, left, -, hr, -⟩ := readerStep_next h
  · exact (readerMoved_surroundings r x s).onlyTaken
  · exact absurd hr (hf b left)

theorem readReturns_surroundings (n : Nat) (s : State) : Surroundings s (readReturns n s) := by
  unfold readReturns
  split <;> exact ⟨rfl, id, fun _ h => h, Nat.le_refl _⟩

theorem answerRead_surroundings {f : State → State} (hf : Surroundings s (f s)) : Surroundings s (answerRead f s) := by
  unfold answerRead
  split
  · exact hf
  · exact .refl s

/-- A step that is not an operation's and not the reader's. -/
theorem perform_onlyTaken {e : Event} (hop : ∀ i, e ≠ .op i) (hreader : e ≠ .reader) (h : perform e s = .next t) :
    OnlyTaken s t := by
  cases e with
  | op i => exact absurd rfl (hop i)
  | reader => exact absurd rfl hreader
  | startReceive role shape => cases h; exact (startReceive_readSide role shape s).onlyTaken
  | callStep id => cases h; exact (callStep_readSide id s).onlyTaken
  | wake id => cases h; exact (wake_readSide id s).onlyTaken
  | expire id => cases h; exact (expire_readSide id s).onlyTaken
  | abort id => cases h; exact (abort_readSide id s).onlyTaken
  | startSend role d => cases h; exact (startSend_sendSide role d s).onlyTaken
  | sendStep id => cases h; exact (sendStep_sendSide id s).onlyTaken
  | readData n => cases h; exact (answerRead_surroundings (readReturns_surroundings n s)).onlyTaken
  | readTimeout | readError =>
    cases h
    exact (answerRead_surroundings (readerMoved_surroundings .between s.rx s)).onlyTaken
  | arrive bytes => cases h; exact (arrive_surroundings bytes s).onlyTaken
  | fire sig => cases h; exact (fire_surroundings sig s).onlyTaken
  | elapse | setWriteFault => cases h; exact ⟨rfl, rfl, Nat.le_refl _, List.suffix_refl _⟩
  | closeStream => cases h; exact (closeStream_surroundings s).onlyTaken

/-- A step in which the reader takes no byte (R215 (1)). -/
theorem step_onlyTaken (h : step s = .next t) (hbyte : ¬ takesByte s) : OnlyTaken s t := by
  cases ha : s.agenda with
  | nil =>
    exact readerStep_onlyTaken (step_idle ha ▸ h) fun b left hr => hbyte (.inl ⟨.inl ha, b, left, hr⟩)
  | cons e rest =>
    suffices hrest : OnlyTaken { s with agenda := rest } t from
      ⟨hrest.parser, hrest.overflow, hrest.count, hrest.queue⟩
    rw [step_cons ha] at h
    by_cases hreader : e = .reader
    · subst hreader
      exact readerStep_onlyTaken (s := { s with agenda := rest }) h fun b left hr =>
        hbyte (.inl ⟨.inr ⟨rest, ha⟩, b, left, hr⟩)
    by_cases hop : ∃ i, e = .op i
    · obtain ⟨i, rfl⟩ := hop
      obtain ⟨hi, hrun⟩ | ⟨-, hrun⟩ := runOperation_cases i { s with agenda := rest }
      · refine exec_onlyTaken hi (hrun.symm.trans h) (fun tr b hb hib htakes => ?_) fun bytes hb hr => ?_
        · exact hbyte (.inr (.inl ⟨tr, b, rest, hib ▸ ha, hb, htakes.imp_right readerFree_iff.mp⟩))
        · exact hbyte (.inr (.inr ⟨i, bytes, rest, ha, hb, hr⟩))
      · cases hrun.symm.trans h
        exact .refl _
    · exact perform_onlyTaken (fun i hi => hop ⟨i, hi⟩) hreader h

end

/-- Settles O50: the reader's operations stay on its side; a byte is the reader's to take now or waits; and the other
agents only take from the queue and the notifier. -/
theorem writeDomainLeavesTheRest : Obligations.WriteDomainLeavesTheRest := by
  intro s
  refine ⟨fun t i hi h => ?_, fun hr => ⟨fun i bytes hb => ?_, fun tr b hb hf => ?_⟩, fun hr tr b hb => ?_,
    fun t h hbyte => ?_⟩
  · have hside := exec_readerSide hi h
    exact ⟨hside.frame, hside.input⟩
  · rw [exec_frame hb, receiveFrame_of_not_ready hr]
    rfl
  · rw [exec_transition hb, takeTransition_of_none (fetchByte_none hr hf)]
    rfl
  · rw [exec_transition hb, exec_transition hb, takeTransition_of_ready hr]
  · have honly := step_onlyTaken h hbyte
    exact ⟨honly.parser, honly.overflow, honly.count, honly.queue⟩

end Sys2Proof.Proofs
end
